-- ==== Sys2Proof/Word.lean ====
section
/-! DEFINITION. The word types of the LCDIF: every value of the block is an unsigned bit vector (R7). -/
namespace Sys2Proof

/-- One byte: a bus payload, a command byte, a glyph, a column (R55, R92). -/
abbrev Byte := BitVec 8

/-- A 4-bit half of a byte, as one data segment carries it (R33, R53). -/
abbrev Nibble := BitVec 4

/-- A one-bit flag: a request operand `A` or `B`, or a one-bit register field (R27, R28, R92). -/
abbrev Flag := BitVec 1

/-- A request word, as `REQ[15:0]` and the latch `REQL` hold it (R22, R90). -/
abbrev Word16 := BitVec 16

/-- A word of the host register window (R23). -/
abbrev Word32 := BitVec 32

end Sys2Proof
end

