-- ==== Sys2Proof/Config.lean ====
section
/-! DEFINITION. What an implementation fixes (the parameters of R6) and the free values the spec leaves open. -/
namespace Sys2Proof

/-- `BUS_MODE` (R6): split 8-bit or 4-bit transfers. -/
inductive BusMode where
  | split8
  | nibble4
deriving DecidableEq, Repr

/-- `CR_CFG` (R6, R175): the configuration a carriage return re-applies. -/
inductive CrCfg where
  | fixed2L5x11
  | current
deriving DecidableEq, Repr

/-- Who answers the bus reads (R5, R60): the unconstrained controller, each of whose answers is a draw,
or the reference model of R62 to R78. DESIGN CHOICE (log 3). -/
inductive ControllerKind where
  | draws
  | reference
deriving DecidableEq, Repr

/-- The implementation parameters of R6. They stand in `State` as data no step writes, so that a
statement about every state is a statement about every parameter choice (log 2). -/
structure Params where
  /-- `BUS_MODE`. -/
  busMode : BusMode
  /-- `POSTINC_BUG`. -/
  postincBug : Bool
  /-- `BUSY_TIMEOUT`: `none` is `NONE`; a legal `some N` has N ≥ 1. -/
  busyTimeout : Option Nat
  /-- `CR_CFG`. -/
  crCfg : CrCfg
  /-- `INIT_CMDS`. DESIGN CHOICE: any bytes, a set-CGRAM byte among them (log 22). -/
  initCmds : List Byte
  /-- `DISP_CB`: C in bit 1, B in bit 0. -/
  dispCb : BitVec 2
  /-- Which controller agent the model runs against. -/
  controller : ControllerKind
deriving DecidableEq, Repr

/-- The legal values of `BUSY_TIMEOUT` (R6): `NONE`, or an integer N ≥ 1. Every other parameter may have any value of
its type, `INIT_CMDS` any bytes: DESIGN CHOICE (log 22). -/
abbrev Params.Legal (p : Params) : Prop := p.busyTimeout ≠ some 0

/-- The default `INIT_CMDS`: `[FS(0,0)]` of the bus mode (R6). -/
def Params.defaultInitCmds : BusMode → List Byte
  | .split8 => [0x30]
  | .nibble4 => [0x20]

/-- The parameters of LCDIF-1 for a bus mode: every other parameter at its default (R6). -/
def Params.forMode (m : BusMode) : Params where
  busMode := m
  postincBug := false
  busyTimeout := none
  crCfg := .fixed2L5x11
  initCmds := Params.defaultInitCmds m
  dispCb := 0
  controller := .draws

/-- The defaults of R6 (LCDIF-1). -/
def Params.default : Params := Params.forMode .split8

/-- `LINE1_BASE` (R6, R51). -/
def line1Base : Byte := 0x00
/-- `LINE2_BASE` (R6, R51). -/
def line2Base : Byte := 0x40
/-- `COLS` (R6): used only by the host's wrap policy (R178). -/
def cols : Nat := 16
/-- `CHAR_BS` (R6). -/
def charBs : Byte := 0x7F
/-- `CHAR_CR` (R6). -/
def charCr : Byte := 0x0D
/-- `CHAR_LF` (R6). -/
def charLf : Byte := 0x0A

namespace Config

/-- FREE VALUE (log 4): the byte the controller answers to the `n`-th raw read of a run (R60, I7). -/
opaque answer : Nat → Byte

/-- FREE VALUE (log 5): any value of `w` bits, fresh for each `n` (the "any value" rows of 93, part 1). -/
opaque anyBits : (w : Nat) → Nat → BitVec w

/-- FREE VALUE (log 5): any position of the display window, fresh for each `n` (I8, I10, I15). -/
opaque anyInt : Nat → Int

/-- OPEN parameter `LO_SEG_MAP` (R6, R53): where bit `i` of segment `DB_LO` sits in its port register. -/
opaque loSegMap : Fin 4 → Nat

/-- OPEN parameter `HI_SEG_MAP` (R6, R53): where bit `i` of segment `DB_HI` sits in its port register. -/
opaque hiSegMap : Fin 4 → Nat

end Config
end Sys2Proof
end

