-- ==== Sys2Proof/Syntax.lean ====
section
/-! DEFINITION. The instructions: one constructor per row of spec/opcode_table.json, the 13 requests the
host writes to `REQ` (R93) and the 8 classes of command byte the controller's register `C` takes (R97). -/
namespace Sys2Proof

/-- The controller's register select: `C` the command register (RS = 0), `D` the data register (RS = 1) (R9, R122). -/
inductive Rs where
  | C
  | D
deriving DecidableEq, Repr

/-- The instructions of the opcode table. -/
inductive Instr where
  /-- INIT: initialise the interface (R200). -/
  | init
  /-- WRITE rs, payload: raw write of one frame (R130). -/
  | write (rs : Rs) (payload : Byte)
  /-- READ rs: read one register after the busy wait (R131). -/
  | read (rs : Rs)
  /-- BUSY: one busy check, without waiting (R132). -/
  | busy
  /-- CLEAR: clear the display (R151). -/
  | clear
  /-- HOME: return the cursor home (R152). -/
  | home
  /-- ENTRY increment: set the entry mode (R153). -/
  | entry (increment : Flag)
  /-- DISPLAY on: turn the display on or off (R154). -/
  | display (on : Flag)
  /-- CONFIGURE lines, font: function set (R155). -/
  | configure (lines font : Flag)
  /-- SETADDR addr: set the DDRAM address (R156). -/
  | setaddr (addr : Byte)
  /-- LINE n, n in 1 and 2: start a line (R157). -/
  | line (n : Nat)
  /-- FEED char: consume one character (R170). -/
  | feed (char : Byte)
  /-- LDCUR line, col: load the cursor mirror (R202). -/
  | ldcur (line : Flag) (col : Byte)
  /-- Clear display, byte 0x01 (R66, R98). -/
  | cmdClear
  /-- Return home, byte 0x02 or 0x03 (R67, R98). -/
  | cmdHome
  /-- Entry mode set: I/D and S (R68, R99). -/
  | cmdEntry (incr shift : Flag)
  /-- Display on/off control: D, C and B (R69, R101). -/
  | cmdDisplay (disp cursor blink : Flag)
  /-- Cursor or display shift: S/C and R/L (R70, R102). -/
  | cmdShift (sc rl : Flag)
  /-- Function set: DL, N and F (R71, R100). -/
  | cmdFunctionSet (dl n f : Flag)
  /-- Set CGRAM address (R72). -/
  | cmdSetCgram (addr : BitVec 6)
  /-- Set DDRAM address (R73, R103). -/
  | cmdSetDdram (addr : BitVec 7)
deriving DecidableEq, Repr

/-- The two formats of the opcode table: a request word (R90) and a bus command byte (R97). -/
inductive Code where
  | request (w : Word16)
  | command (b : Byte)
deriving DecidableEq, Repr

end Sys2Proof
end

