-- ==== Sys2Proof/Machine/State.lean ====
section
/-! DEFINITION. The state of the three agents (R5) as plain data: the LCDIF block (10_state.md), the HD44780
reference controller (20_memory.md, section 5), the host's accesses, and the bus trace (R9). -/
namespace Sys2Proof.Machine

/-- The source's BusFrame: register select and payload (R55). -/
structure Frame where
  rs : Rs
  payload : Byte
deriving DecidableEq, Repr

/-- The events of the bus trace (R9). -/
inductive Event where
  /-- A busy-check read of the command register; it returned `v`. -/
  | poll (v : Byte)
  /-- A write of `b`. -/
  | wr (rs : Rs) (b : Byte)
  /-- A read that is not a busy check; it returned `v`. -/
  | rd (rs : Rs) (v : Byte)
deriving DecidableEq, Repr

/-- The LCD-side pins and direction latches (R33). DESIGN CHOICE (log 24): an input pin keeps the level the controller
drove last while the controller drives nothing on it. -/
structure Pins where
  /-- `E`. -/
  e : Bool
  /-- `RW`: false writes, true reads (R122). -/
  rw : Bool
  /-- `RS`: false selects `C`, true `D` (R122). -/
  rs : Bool
  /-- `CTRL_OE` (R35). -/
  ctrlOe : Bool
  /-- `DB_OE` (R34). -/
  dbOe : Bool
  /-- `DB_LO_OUT`. -/
  dbLoOut : Nibble
  /-- `DB_HI_OUT`. -/
  dbHiOut : Nibble
  /-- `DB_LO_IN`: the level the controller drove last (log 24). -/
  dbLoIn : Nibble
  /-- `DB_HI_IN`: the level the controller drove last (log 24). -/
  dbHiIn : Nibble
deriving DecidableEq, Repr

/-- One micro-operation of the sequencer (R21, R121): a pin change, a sample, or one line of the
pseudocode of R123 to R132, R174 to R177 and R200. DESIGN CHOICE (log 23): R121 counts only pin changes and samples;
the other lines, the recording of a POLL or RD among them, are micro-operations of their own here. -/
inductive MicroOp where
  /-- `CTRL_OE <- v`. -/
  | ctrlOe (v : Bool)
  /-- `RS <- r`. -/
  | rs (r : Rs)
  /-- `RW <- v`. -/
  | rw (v : Bool)
  /-- `E <- v`, where no data is latched or driven. -/
  | e (v : Bool)
  /-- `DB_OE <- v`. -/
  | dbOe (v : Bool)
  /-- The argument `b` of a BusWrite (R124). -/
  | load (b : Byte)
  /-- The argument of the CR path's last BusWrite: the start of the other line (R175). -/
  | loadTarget
  /-- `DB_LO_OUT <- b[3:0]` (R126). -/
  | driveLo
  /-- `DB_HI_OUT <- b[7:4]` (R126, R127). -/
  | driveHi
  /-- `DB_HI_OUT <- b[3:0]`, the second nibble of NIBBLE4 (R127). -/
  | driveHiLow
  /-- The first `E <- 0` of a NIBBLE4 write: the high nibble is latched (R127). -/
  | latchHigh
  /-- The last `E <- 0` of a RawWrite: the controller latches the byte, and `WR(rs, b)` is recorded (R121, R126). -/
  | latch (r : Rs)
  /-- `E <- 1` of a SPLIT8 read: the controller drives both segments (R128). -/
  | answer
  /-- The first `E <- 1` of a NIBBLE4 read: the controller drives the high nibble (R129). -/
  | answerHigh
  /-- The second `E <- 1` of a NIBBLE4 read: the controller drives the low nibble (R129). -/
  | answerLow
  /-- `lo = sample(DB_LO_IN)` (R128). -/
  | sampleLo
  /-- `hi = sample(DB_HI_IN)` or `h = sample(DB_HI_IN)` (R128, R129). -/
  | sampleHi
  /-- `l = sample(DB_HI_IN)` (R129). -/
  | sampleHiAsLo
  /-- `n = 0` of PollBusy (R125). -/
  | pollInit
  /-- The busy test of PollBusy: `emit POLL(v)`, `n = n + 1`, and then go on, repeat or time out (R125). After the
  read's last pin change: log 23. -/
  | pollTest
  /-- The busy check of BUSY: `emit POLL(v)`, `v` kept as the result (R132). After the read's last pin change: log 23. -/
  | pollOnce
  /-- `emit RD(rs, v)`, `v` kept as the result (R123). After the read's last pin change: log 23. -/
  | rd (r : Rs)
  /-- The completion updates, `STATUS.ERR <- 0` and `STEP <- IDLE` (R31, R120). -/
  | commit
deriving DecidableEq, Repr

/-- `CFG.LINES` and `CFG.FONT` (R27). -/
structure DisplayConfig where
  lines : Flag
  font : Flag
deriving DecidableEq, Repr

/-- `CUR.LINE` and `CUR.COL` (R28). -/
structure CursorState where
  line : Flag
  col : Byte
deriving DecidableEq, Repr

/-- The error codes a request can end with (R210); 4 to 15 are never produced. -/
inductive ErrCode where
  | ok
  | illegal
  | notInit
  | busTimeout
deriving DecidableEq, Repr

/-- The host-visible registers a request updates at its completion, all together (R31). -/
structure Regs where
  /-- `STATUS.INITD` (R25). -/
  initd : Bool
  /-- `STATUS.ERR` (R25). -/
  err : ErrCode
  /-- `RESP.RDATA` (R26). -/
  resp : Byte
  /-- `CFG` (R27); its BUSMODE bit is the parameter. -/
  cfg : DisplayConfig
  /-- `CUR` (R28). -/
  cur : CursorState
deriving DecidableEq, Repr

/-- The reference controller's state (R62). Its busy flag BF is 1 exactly while a frame is `pending` (R77). -/
structure Lcd where
  /-- `DDRAM` (R62), the cells that differ from `Memory.blank`, in canonical form. -/
  ddram : List Host.Cell
  /-- `AC`. -/
  ac : BitVec 7
  /-- `ID`. -/
  incr : Flag
  /-- `SH`. -/
  shift : Flag
  /-- `DON`. -/
  dispOn : Flag
  /-- `CON`. -/
  cursorOn : Flag
  /-- `BON`. -/
  blinkOn : Flag
  /-- `DL`. -/
  dl : Flag
  /-- `N`. -/
  n : Flag
  /-- `F`. -/
  f : Flag
  /-- `RDOK`. -/
  rdok : Bool
  /-- The net shift of the display window (R66, R67, R70, R74): an unbounded count that never wraps around the row,
  DESIGN CHOICE (log 11). -/
  window : Int
  /-- The frame the controller has latched and not yet executed. -/
  pending : Option Frame
  /-- A set-CGRAM byte has refused the reference model for the rest of the run (R72): the controller's answers are
  draws again (R60), and its state is any (log 17). -/
  offModel : Bool
  /-- The model's own: the index of the controller's next free value (log 5). -/
  fresh : Nat
deriving DecidableEq, Repr

/-- The width of a host access (R30). -/
inductive Width where
  | byte
  | half
  | word
deriving DecidableEq, Repr

/-- What the host does next (R223): a read or a write at a byte offset of the window. -/
inductive HostEvent where
  | read (offset : Byte) (width : Width)
  | write (offset : Byte) (width : Width) (data : Word32)
deriving DecidableEq, Repr

/-- What moves next: one of the three agents (R5), or an event from outside that any of them may meet at any time. -/
inductive Turn where
  | host
  | block
  | controller
  /-- Block reset (R240): asserted and released in this one turn. DESIGN CHOICE (log 20). -/
  | blockReset
  /-- Boot step 1: the host has brought the board up (R242). -/
  | boardBringUp
  /-- Boot step 2: the controller's power-up and power-on reset (R78, R242), the supply rise met or not (I17). -/
  | controllerPowerUp (riseMet : Bool)
deriving DecidableEq, Repr

/-- The whole state. -/
structure State where
  /-- The implementation parameters (R6); no step writes them. -/
  params : Params
  /-- `STEP` (R21): the micro-operations of the current request still to perform; `[]` is `IDLE`. -/
  seq : List MicroOp
  /-- `REQL` (R22). -/
  reql : Word16
  /-- The host-visible registers (R25 to R28). -/
  regs : Regs
  /-- `POLLCNT` (R37); 0 throughout when `BUSY_TIMEOUT` is `NONE`. -/
  pollcnt : Nat
  /-- The pins (R33). -/
  pins : Pins
  /-- The byte a BusWrite is writing (R124). -/
  tx : Byte
  /-- The low nibble a RawRead sampled (R128, R129). -/
  rxLo : Nibble
  /-- The high nibble a RawRead sampled (R128, R129). -/
  rxHi : Nibble
  /-- The byte the request's own read returned (R131, R132, R175). -/
  acc : Byte
  /-- The byte in flight between the two enable pulses of a NIBBLE4 transfer (R127, R129). -/
  wire : Byte
  /-- The bus trace, oldest first (R9). -/
  trace : List Event
  /-- The reference controller (R62). -/
  lcd : Lcd
  /-- The host's accesses still to come, in its program order. -/
  hostQ : List HostEvent
  /-- The word the host's last read returned; before its first read the model's 0, DESIGN CHOICE (log 6). -/
  hostData : Word32
  /-- The turns planned; when there is none, `nextTurn` has a default order. -/
  turns : List Turn
  /-- How many micro-operations a block turn may perform; `none` leaves it unbounded. -/
  quantum : Option Nat
  /-- Controller answers supplied in advance; after them come the free values of `Config.answer`. -/
  answers : List Byte
  /-- Raw reads so far: the index of the next free answer. -/
  reads : Nat
  /-- Board bring-up is done (R242, step 1). -/
  boardUp : Bool
  /-- The controller is powered and can answer a busy check in the bus mode (R242, step 2; R254). -/
  lcdUp : Bool
deriving DecidableEq, Repr

/-- Faults that stop the machine. The spec gives none: its errors are codes in `STATUS.ERR` (R210, R219), and
the hang is an infinite run (R217). -/
inductive Fault where
deriving DecidableEq, Repr

/-- Why a step has no meaning. -/
inductive Refusal where
  /-- Raised by an arm of `exec` whose instruction has no meaning yet; safe. -/
  | notModelled (mnemonic : String)
  /-- Raised by a host access that is not an aligned word, which "a model refuses" (R30, I12); safe. -/
  | hostAccessNotAlignedWord
  /-- Raised by an INIT before board bring-up and controller power-up, a launch "a model refuses" (R242, I13); safe. -/
  | launchBeforeBringUp
deriving DecidableEq, Repr

/-- The pins after block reset (R43). The levels of the input pins are the model's choice (log 8). -/
def Pins.reset : Pins where
  e := false
  rw := false
  rs := false
  ctrlOe := false
  dbOe := false
  dbLoOut := 0
  dbHiOut := 0
  dbLoIn := 0
  dbHiIn := 0

/-- The registers after block reset (R43). -/
def Regs.reset : Regs where
  initd := false
  err := .ok
  resp := 0
  cfg := { lines := 0, font := 0 }
  cur := { line := 0, col := 0 }

/-- The reference power-on state (R78); BF, the window and the unimplemented cells are the model's choice (log 9). -/
def Lcd.powerOn : Lcd where
  ddram := []
  ac := 0
  incr := 1
  shift := 0
  dispOn := 0
  cursorOn := 0
  blinkOn := 0
  dl := 1
  n := 0
  f := 0
  rdok := false
  window := 0
  pending := none
  offModel := false
  fresh := 0

/-- The controller as boot step 2 leaves it (R242): the power-on state, and in NIBBLE4 already in 4-bit mode, so its
bus width DL is the block's. DEDUCED (log 19): R78's DL = 1 is before that mode is entered (R254). -/
def Lcd.booted (m : BusMode) : Lcd :=
  { Lcd.powerOn with
    dl := match m with
      | .split8 => 1
      | .nibble4 => 0 }

/-- The state after block reset (R43) with the given parameters, the controller through boot step 2. That it has just
powered up is the model's choice (log 9). -/
def State.resetWith (p : Params) : State where
  params := p
  seq := []
  reql := 0
  regs := Regs.reset
  pollcnt := 0
  pins := Pins.reset
  tx := 0
  rxLo := 0
  rxHi := 0
  acc := 0
  wire := 0
  trace := []
  lcd := Lcd.booted p.busMode
  hostQ := []
  hostData := 0
  turns := []
  quantum := none
  answers := []
  reads := 0
  boardUp := true
  lcdUp := true

/-- The state after block reset, with the parameters of LCDIF-1 (R6, R43). -/
def State.reset : State := State.resetWith Params.default

end Sys2Proof.Machine
end

