-- ==== Sys2Proof/Machine/Operands.lean ====
section
/-! DEFINITION. The operand forms: nibble steering (R53), the command bytes the block emits (R97 to R103) and
the character classes of FEED (R105). -/
namespace Sys2Proof.Machine

/-- `split(b)`: the low and the high nibble (R53). -/
def split (b : Byte) : Nibble × Nibble := (b.extractLsb' 0 4, b.extractLsb' 4 4)

/-- `join(lo, hi)` = `{hi, lo}` (R53). -/
def join (lo hi : Nibble) : Byte := hi ++ lo

/-- The bits of a nibble in its port register, each at the place a segment map gives it (R53). -/
def portBits (segMap : Fin 4 → Nat) (v : Nibble) : Nat :=
  (v.getLsbD 0).toNat <<< segMap 0 ||| (v.getLsbD 1).toNat <<< segMap 1
    ||| (v.getLsbD 2).toNat <<< segMap 2 ||| (v.getLsbD 3).toNat <<< segMap 3

/-- What the low segment drives in the board's port register: a function of the OPEN `LO_SEG_MAP` (R53). -/
def loPort (s : State) : Nat := portBits Config.loSegMap s.pins.dbLoOut
/-- What the high segment drives in the board's port register: a function of the OPEN `HI_SEG_MAP` (R53). -/
def hiPort (s : State) : Nat := portBits Config.hiSegMap s.pins.dbHiOut

/-- `CMD_CLEAR` (R98). -/
def cmdClearByte : Byte := 0x01
/-- `CMD_HOME` (R98). -/
def cmdHomeByte : Byte := 0x02
/-- `CMD_LEFT` (R102). -/
def cmdLeftByte : Byte := 0x10
/-- The space glyph of the backspace path (R104). -/
def spaceGlyph : Byte := 0x20

/-- `ENTRY(inc) = 0x04 | (inc << 1)` (R99). -/
def entryByte (inc : Flag) : Byte := 0x04 ||| (inc.setWidth 8 <<< 1)

/-- The bus-width bit DL of the function set: 1 in SPLIT8, 0 in NIBBLE4 (R100). -/
def dlBit : BusMode → Byte
  | .split8 => 1
  | .nibble4 => 0

/-- `FS(l, f) = 0x20 | (DL << 4) | (l << 3) | (f << 2)` (R100). -/
def fsByte (m : BusMode) (l f : Flag) : Byte :=
  0x20 ||| (dlBit m <<< 4) ||| (l.setWidth 8 <<< 3) ||| (f.setWidth 8 <<< 2)

/-- `DISP(on) = 0x08 | (on << 2) | DISP_CB` (R101). -/
def dispByte (dispCb : BitVec 2) (on : Flag) : Byte := 0x08 ||| (on.setWidth 8 <<< 2) ||| dispCb.setWidth 8

/-- `SETDD(a) = 0x80 | a` (R103). -/
def setddByte (a : Byte) : Byte := 0x80 ||| a

/-- The base address LINE jumps to: `(n == 1) ? LINE1_BASE : LINE2_BASE` (R157). -/
def lineBase (n : Nat) : Byte := if n = 1 then line1Base else line2Base

/-- The character classes of FEED (R105). -/
inductive CharClass where
  | bs
  | cr
  | lf
  | printable
deriving DecidableEq, Repr

/-- The class of a byte, by exact equality in the order of R105. -/
def classOf (c : Byte) : CharClass :=
  if c = charBs then .bs else if c = charCr then .cr else if c = charLf then .lf else .printable

/-- The address in a byte read from `C`: bits 6:0 (R175, D14). -/
def addressOf (v : Byte) : BitVec 7 := v.extractLsb' 0 7

/-- The CR comparison `a >= LINE2_BASE` (R175, C1). -/
def onLine2 (a : BitVec 7) : Bool := decide (line2Base.toNat ≤ a.toNat)

/-- The line the CR path jumps to, as `CUR.LINE` (R175). -/
def crTarget (a : BitVec 7) : Flag := if onLine2 a then 0 else 1

/-- The command byte of the CR path's jump (R175). -/
def crJumpByte (a : BitVec 7) : Byte := if onLine2 a then setddByte line1Base else setddByte line2Base

/-- The configuration the CR path re-applies: the fixed 2-line/5x11, or `CFG` (R175, C9). -/
def crConfig (p : Params) (c : DisplayConfig) : DisplayConfig :=
  match p.crCfg with
  | .fixed2L5x11 => { lines := 1, font := 1 }
  | .current => c

/-- The RS level of a register select (R122). -/
def rsLevel : Rs → Bool
  | .C => false
  | .D => true

/-- The register an RS level selects (R122). -/
def rsOfLevel (v : Bool) : Rs := if v then .D else .C

end Sys2Proof.Machine
end

