-- ==== Sys2Proof/Machine/Flags.lean ====
section
/-! DEFINITION. The busy flag (R32), the counter arithmetic (R172) and the words of the host register window
(R23 to R29). -/
namespace Sys2Proof.Machine

/-- The busy flag in a byte read from `C`: bit 7 (R32, R125). -/
def busyFlag (v : Byte) : Bool := v.getLsbD 7

/-- BUSY's result `zext_8(v[7])` (R132). -/
def busyResult (v : Byte) : Byte := if busyFlag v then 0x01 else 0x00

/-- `inc(col) = (col + 1) mod 256` (R172). -/
def incCol (col : Byte) : Byte := col + 1

/-- `dec(col)`, saturating at 0 (R172). -/
def decCol (col : Byte) : Byte := if col = 0 then 0 else col - 1

/-- The code of an error in `STATUS.ERR` (R210). -/
def errBits : ErrCode → BitVec 4
  | .ok => 0
  | .illegal => 1
  | .notInit => 2
  | .busTimeout => 3

/-- `STATUS.READY = (STEP = IDLE)` (R21, R25). -/
def ready (s : State) : Bool := s.seq.isEmpty

/-- The word `STATUS` reads as (R25): READY, INITD, ERR and DBOE; the rest 0. -/
def statusWord (s : State) : Word32 :=
  0#23 ++ (BitVec.ofBool s.pins.dbOe ++ (errBits s.regs.err ++ (0#2 ++ (BitVec.ofBool s.regs.initd ++ BitVec.ofBool (ready s)))))

/-- The word `RESP` reads as (R26). -/
def respWord (s : State) : Word32 := 0#24 ++ s.regs.resp

/-- The hard-wired BUSMODE bit of `CFG` (R27). -/
def busModeBit : BusMode → Flag
  | .split8 => 0
  | .nibble4 => 1

/-- The word `CFG` reads as (R27). -/
def cfgWord (s : State) : Word32 :=
  0#29 ++ (busModeBit s.params.busMode ++ (s.regs.cfg.font ++ s.regs.cfg.lines))

/-- The word `CUR` reads as (R28). -/
def curWord (s : State) : Word32 := 0#23 ++ (s.regs.cur.line ++ s.regs.cur.col)

/-- The word a host read of the window returns (R23): `REQ` and the reserved offsets read 0 (R24, R29). -/
def readWindow (s : State) (offset : Byte) : Word32 :=
  match offset.toNat with
  | 0x04 => statusWord s
  | 0x08 => respWord s
  | 0x0C => cfgWord s
  | 0x10 => curWord s
  | _ => 0

/-- A host access the block defines: an aligned word (R30). -/
def alignedWord (offset : Byte) (w : Width) : Bool := w == .word && offset.toNat % 4 == 0

end Sys2Proof.Machine
end

