-- ==== Sys2Proof/Machine/Commit.lean ====
section
/-! DEFINITION. The register updates a request commits at its completion, all at once (R31), each from its own
rule's pseudocode. `STATUS.ERR` is written by the execution cycle (R120). -/
namespace Sys2Proof.Machine

/-- INIT: `CFG`, `CUR` and `INITD` (R200). -/
def commitInit (r : Regs) : Regs :=
  { r with cfg := { lines := 0, font := 0 }, cur := { line := 0, col := 0 }, initd := true }

/-- READ: `RESP.RDATA <- v` (R131). -/
def commitRead (v : Byte) (r : Regs) : Regs := { r with resp := v }

/-- BUSY: `RESP.RDATA <- zext_8(v[7])` (R132). -/
def commitBusy (v : Byte) (r : Regs) : Regs := { r with resp := busyResult v }

/-- CLEAR and HOME: `CUR.LINE <- 0 ; CUR.COL <- 0` (R151, R152). -/
def commitCursorHome (r : Regs) : Regs := { r with cur := { line := 0, col := 0 } }

/-- CONFIGURE: `CFG.LINES <- lines ; CFG.FONT <- font` (R155). -/
def commitConfigure (l f : Flag) (r : Regs) : Regs := { r with cfg := { lines := l, font := f } }

/-- LINE: `CUR.LINE <- n - 1 ; CUR.COL <- 0` (R157). -/
def commitLine (n : Nat) (r : Regs) : Regs := { r with cur := { line := BitVec.ofNat 1 (n - 1), col := 0 } }

/-- LDCUR: `CUR.LINE' = line ; CUR.COL' = col` (R202). -/
def commitLdcur (line : Flag) (col : Byte) (r : Regs) : Regs := { r with cur := { line := line, col := col } }

/-- FEED's updates of `CUR` and `CFG`, by class (R174 to R177); `v` is the byte the CR path read. -/
def commitFeedClass (p : Params) (v : Byte) (k : CharClass) (r : Regs) : Regs :=
  match k with
  | .bs => { r with cur := { r.cur with col := decCol r.cur.col } }
  | .cr => { r with cfg := crConfig p r.cfg, cur := { line := crTarget (addressOf v), col := 0 } }
  | .lf => r
  | .printable => { r with cur := { r.cur with col := if p.postincBug then r.cur.col else incCol r.cur.col } }

/-- FEED: the class's updates, then `RESP.RDATA <- CUR.COL'` (R170). -/
def commitFeed (p : Params) (v : Byte) (c : Byte) (r : Regs) : Regs :=
  let r' := commitFeedClass p v (classOf c) r
  { r' with resp := r'.cur.col }

/-- The updates of a request, by its own rule; `v` is the byte its own read returned. Requests with no update
leave the registers as they are (R130, R153, R154, R156). -/
def commitOf (p : Params) (v : Byte) (i : Instr) (r : Regs) : Regs :=
  match i with
  | .init => commitInit r
  | .write _ _ => r
  | .read _ => commitRead v r
  | .busy => commitBusy v r
  | .clear => commitCursorHome r
  | .home => commitCursorHome r
  | .entry _ => r
  | .display _ => r
  | .configure l f => commitConfigure l f r
  | .setaddr _ => r
  | .line n => commitLine n r
  | .feed c => commitFeed p v c r
  | .ldcur l c => commitLdcur l c r
  | .cmdClear => r
  | .cmdHome => r
  | .cmdEntry _ _ => r
  | .cmdDisplay _ _ _ => r
  | .cmdShift _ _ => r
  | .cmdFunctionSet _ _ _ => r
  | .cmdSetCgram _ => r
  | .cmdSetDdram _ => r

end Sys2Proof.Machine
end

