-- ==== Sys2Proof/WellFormed.lean ====
section
/-! DEFINITION. Which instructions are well formed. Every operand but LINE's is bounded by its type; LINE
takes n in 1 and 2, since its encoding has one bit for n - 1 (R157). -/
namespace Sys2Proof

/-- LINE's operand names line 1 or line 2 (R157: "There is no line 3"). -/
abbrev LineOperandOk (n : Nat) : Prop := n = 1 ∨ n = 2

/-- Well-formedness: LINE's operand is 1 or 2; the other instructions' operand types leave nothing to check. -/
abbrev WellFormed : Instr → Prop
  | .line n => LineOperandOk n
  | .init | .write _ _ | .read _ | .busy | .clear | .home | .entry _ | .display _ | .configure _ _
  | .setaddr _ | .feed _ | .ldcur _ _ => True
  | .cmdClear | .cmdHome | .cmdEntry _ _ | .cmdDisplay _ _ _ | .cmdShift _ _ | .cmdFunctionSet _ _ _
  | .cmdSetCgram _ | .cmdSetDdram _ => True

/-- A request, as opposed to a controller command byte (spec/opcode_table.json, "format"). -/
abbrev Instr.isRequest : Instr → Bool
  | .init | .write _ _ | .read _ | .busy | .clear | .home | .entry _ | .display _ | .configure _ _
  | .setaddr _ | .line _ | .feed _ | .ldcur _ _ => true
  | .cmdClear | .cmdHome | .cmdEntry _ _ | .cmdDisplay _ _ _ | .cmdShift _ _ | .cmdFunctionSet _ _ _
  | .cmdSetCgram _ | .cmdSetDdram _ => false

end Sys2Proof
end

