-- ==== Sys2Proof/Decode.lean ====
section
/-! DEFINITION. The decoder of request words (R91 to R96) and of command bytes (R65, R97), total and rejecting
by name, and after it the encoder. -/
namespace Sys2Proof

/-- Why a word is no instruction. The first three are the cases (a), (b), (c) of R95; every one of them is the
one error ILLEGAL. The last is the byte with no command in it (R65, I10). -/
inductive Reject where
  | reservedOpc
  | mustBeZero
  | upperBits
  | noCommand
deriving DecidableEq, Repr

/-- The fields of a request word (R91). -/
def opcOf (w : Word16) : BitVec 4 := w.extractLsb' 12 4
def rsvOf (w : Word16) : BitVec 2 := w.extractLsb' 10 2
def bOf (w : Word16) : Flag := w.extractLsb' 9 1
def aOf (w : Word16) : Flag := w.extractLsb' 8 1
def argOf (w : Word16) : Byte := w.extractLsb' 0 8

/-- The flag `A` read as `rs` (R92): 0 is `C`, 1 is `D`. -/
def rsOfFlag (a : Flag) : Rs := if a = 1 then .D else .C
/-- `rs` as the flag `A`. -/
def flagOfRs : Rs → Flag
  | .C => 0
  | .D => 1

/-- Accept `i` when its must-be-zero fields are 0 (R95 (b)). -/
def guardZero (ok : Bool) (i : Instr) : Except Reject Instr := if ok then .ok i else .error .mustBeZero

/-- The request decoder of R96 on `w[15:0]`. -/
def decodeRequest (w : Word16) : Except Reject Instr :=
  let a := aOf w
  let b := bOf w
  let arg := argOf w
  if rsvOf w ≠ 0 then .error .mustBeZero
  else match (opcOf w).toNat with
    | 0x1 => guardZero (b == 0 && a == 0 && arg == 0) .init
    | 0x2 => guardZero (b == 0) (.write (rsOfFlag a) arg)
    | 0x3 => guardZero (b == 0 && arg == 0) (.read (rsOfFlag a))
    | 0x4 => guardZero (b == 0 && a == 0 && arg == 0) .busy
    | 0x5 => guardZero (b == 0 && a == 0 && arg == 0) .clear
    | 0x6 => guardZero (b == 0 && a == 0 && arg == 0) .home
    | 0x7 => guardZero (b == 0 && arg == 0) (.entry a)
    | 0x8 => guardZero (b == 0 && arg == 0) (.display a)
    | 0x9 => guardZero (arg == 0) (.configure a b)
    | 0xA => guardZero (b == 0 && a == 0) (.setaddr arg)
    | 0xB => guardZero (b == 0 && arg == 0) (.line (a.toNat + 1))
    | 0xC => guardZero (b == 0 && a == 0) (.feed arg)
    | 0xD => guardZero (b == 0) (.ldcur a arg)
    | _ => .error .reservedOpc

/-- The command a byte written to `C` is: the one its highest set bit names (R65, R97). -/
def decodeCommand (c : Byte) : Except Reject Instr :=
  if c.getLsbD 7 then .ok (.cmdSetDdram (c.extractLsb' 0 7))
  else if c.getLsbD 6 then .ok (.cmdSetCgram (c.extractLsb' 0 6))
  else if c.getLsbD 5 then .ok (.cmdFunctionSet (c.extractLsb' 4 1) (c.extractLsb' 3 1) (c.extractLsb' 2 1))
  else if c.getLsbD 4 then .ok (.cmdShift (c.extractLsb' 3 1) (c.extractLsb' 2 1))
  else if c.getLsbD 3 then .ok (.cmdDisplay (c.extractLsb' 2 1) (c.extractLsb' 1 1) (c.extractLsb' 0 1))
  else if c.getLsbD 2 then .ok (.cmdEntry (c.extractLsb' 1 1) (c.extractLsb' 0 1))
  else if c.getLsbD 1 then .ok .cmdHome
  else if c.getLsbD 0 then .ok .cmdClear
  else .error .noCommand

/-- The decoder on either format. -/
def decode : Code → Except Reject Instr
  | .request w => decodeRequest w
  | .command c => decodeCommand c

/-- The decoder on a host write to `REQ` (R96): total over all 2^32 values. -/
def decodeWrite (w : Word32) : Except Reject Instr :=
  if w.extractLsb' 16 16 ≠ 0 then .error .upperBits else decodeRequest (w.extractLsb' 0 16)

/-- The request word with the given fields and `RSV = 0` (R91). -/
def requestWord (opc : BitVec 4) (b a : Flag) (arg : Byte) : Word16 := opc ++ (0#2 ++ (b ++ (a ++ arg)))

/-- The encoder, from R93, R94 and R97. The bits R97 marks x are 0. -/
def encode : Instr → Code
  | .init => .request (requestWord 0x1 0 0 0)
  | .write rs b => .request (requestWord 0x2 0 (flagOfRs rs) b)
  | .read rs => .request (requestWord 0x3 0 (flagOfRs rs) 0)
  | .busy => .request (requestWord 0x4 0 0 0)
  | .clear => .request (requestWord 0x5 0 0 0)
  | .home => .request (requestWord 0x6 0 0 0)
  | .entry i => .request (requestWord 0x7 0 i 0)
  | .display on => .request (requestWord 0x8 0 on 0)
  | .configure l f => .request (requestWord 0x9 f l 0)
  | .setaddr a => .request (requestWord 0xA 0 0 a)
  | .line n => .request (requestWord 0xB 0 (BitVec.ofNat 1 (n - 1)) 0)
  | .feed c => .request (requestWord 0xC 0 0 c)
  | .ldcur l c => .request (requestWord 0xD 0 l c)
  | .cmdClear => .command 0x01
  | .cmdHome => .command 0x02
  | .cmdEntry i s => .command (0b000001#6 ++ (i ++ s))
  | .cmdDisplay d c b => .command (0b00001#5 ++ (d ++ (c ++ b)))
  | .cmdShift sc rl => .command (0b0001#4 ++ (sc ++ (rl ++ 0#2)))
  | .cmdFunctionSet dl n f => .command (0b001#3 ++ (dl ++ (n ++ (f ++ 0#2))))
  | .cmdSetCgram a => .command (0b01#2 ++ a)
  | .cmdSetDdram a => .command (0b1#1 ++ a)

/-- A request's word, as the latch `REQL` holds it (R22); a command byte has none (0, an ILLEGAL word). -/
def requestBits (i : Instr) : Word16 :=
  match encode i with
  | .request w => w
  | .command _ => 0

/-- The instruction the decoder reads from an instruction of `nbits` bits whose bits are `w`, numbered as
spec/opcode_table.json numbers them: 8 bits are a command byte, 16 a request word. -/
def decodeTableWord (nbits w : Nat) : Option Instr :=
  if nbits ≤ 8 then (decodeCommand (BitVec.ofNat 8 w)).toOption
  else (decodeWrite (BitVec.ofNat 32 w)).toOption

end Sys2Proof
end

