-- ==== Sys2Proof/Machine/Memory.lean ====
section
/-! DEFINITION. The controller's DDRAM (R62, R63): a sparse list of cells in one canonical form. -/
namespace Sys2Proof.Machine

/-- What an unlisted address reads as: the blank the power-on reset and CLEAR fill DDRAM with (R66, R78; log 9). -/
def Memory.blank : Byte := 0x20

/-- DDRAM's address space is 7 bits (R50, R62). -/
def Memory.size : Nat := 128

/-- The byte at an address. -/
def Memory.read : List Host.Cell → Nat → Byte
  | [], _ => Memory.blank
  | c :: m, a => if c.1 = a then c.2 else Memory.read m a

/-- Put a cell in front, unless it holds the blank. -/
def Memory.cons (a : Nat) (v : Byte) (m : List Host.Cell) : List Host.Cell :=
  if v = Memory.blank then m else (a, v) :: m

/-- Write a byte, keeping the canonical form. -/
def Memory.write : List Host.Cell → Nat → Byte → List Host.Cell
  | [], a, v => Memory.cons a v []
  | c :: m, a, v =>
    if a < c.1 then Memory.cons a v (c :: m)
    else if a = c.1 then Memory.cons a v m
    else c :: Memory.write m a v

/-- The canonical form: addresses strictly rising and inside DDRAM, no cell holding the blank. -/
abbrev Memory.wf (m : List Host.Cell) : Prop :=
  m.Pairwise (fun c d => c.1 < d.1) ∧ ∀ c ∈ m, c.1 < Memory.size ∧ c.2 ≠ Memory.blank

/-- The implemented cells for a line count N (R63). -/
def Memory.implemented (n : Flag) (a : Nat) : Bool :=
  if n = 1 then decide (a ≤ 0x27) || (decide (0x40 ≤ a) && decide (a ≤ 0x67)) else decide (a ≤ 0x4F)

/-- Fill every implemented cell with the blank (R66); the other cells stay. -/
def Memory.clear (n : Flag) (m : List Host.Cell) : List Host.Cell :=
  m.filter (fun c => !Memory.implemented n c.1)

/-- Contents of which nothing is known: each cell a free value. -/
@[irreducible] def Memory.any (fresh : Nat) : List Host.Cell :=
  (List.range Memory.size).foldl (fun m a => Memory.write m a (Config.anyBits 8 (fresh + a))) []

end Sys2Proof.Machine
end

