-- ==== Sys2Proof/Machine/ReferenceLcd.lean ====
section
/-! DEFINITION. The reference controller's operations (R62 to R78): what each command byte, data write and data
read does to its state. Every open value is a free value (I8 to I11, I15). -/
namespace Sys2Proof.Machine

/-- How many free values `anyController` takes: one per DDRAM cell and one per other field. -/
def controllerDraws : Nat := 160

/-- A controller of which nothing is known (I8, I10, I15). Whether the reference model has been refused is a fact
about the run, so it stays. -/
def anyController (c : Lcd) : Lcd where
  ddram := Memory.any c.fresh
  ac := Config.anyBits 7 (c.fresh + 128)
  incr := Config.anyBits 1 (c.fresh + 129)
  shift := Config.anyBits 1 (c.fresh + 130)
  dispOn := Config.anyBits 1 (c.fresh + 131)
  cursorOn := Config.anyBits 1 (c.fresh + 132)
  blinkOn := Config.anyBits 1 (c.fresh + 133)
  dl := Config.anyBits 1 (c.fresh + 134)
  n := Config.anyBits 1 (c.fresh + 135)
  f := Config.anyBits 1 (c.fresh + 136)
  rdok := Config.anyBits 1 (c.fresh + 137) == 1
  window := Config.anyInt (c.fresh + 138)
  pending := c.pending
  offModel := c.offModel
  fresh := c.fresh + controllerDraws

/-- A busy flag of which nothing is known (R241, I8). Where it is 1 the work under way has any effect: the frame
held is the byte with no command in it, whose effect is any (I10). It is never a set-CGRAM byte, since no write has
put one there (R72). -/
def anyPending (c : Lcd) : Lcd :=
  { c with
    pending := if Config.anyBits 1 c.fresh = 1 then some { rs := .C, payload := 0x00 } else none
    fresh := c.fresh + 1 }

/-- `acnext(a, up)` (R64); from an unimplemented address the result is the free value `free` (I9). -/
def acNext (n : Flag) (a : BitVec 7) (up : Bool) (free : BitVec 7) : BitVec 7 :=
  if !Memory.implemented n a.toNat then free
  else if n = 1 then
    if up then if a = 0x27 then 0x40 else if a = 0x67 then 0x00 else a + 1
    else if a = 0x40 then 0x27 else if a = 0x00 then 0x67 else a - 1
  else
    if up then if a = 0x4F then 0x00 else a + 1
    else if a = 0x00 then 0x4F else a - 1

/-- `AC <- acnext(AC, up)` (R64). -/
def moveAc (up : Bool) (c : Lcd) : Lcd :=
  { c with ac := acNext c.n c.ac up (Config.anyBits 7 c.fresh), fresh := c.fresh + 1 }

/-- Clear display (R66). -/
def lcdClear (c : Lcd) : Lcd :=
  { c with ddram := Memory.clear c.n c.ddram, ac := 0, incr := 1, window := 0, rdok := false }

/-- Return home (R67). -/
def lcdHome (c : Lcd) : Lcd := { c with ac := 0, window := 0, rdok := false }

/-- Entry mode set (R68). -/
def lcdEntry (incr shift : Flag) (c : Lcd) : Lcd := { c with incr := incr, shift := shift }

/-- Display on/off control (R69). -/
def lcdDisplay (disp cursor blink : Flag) (c : Lcd) : Lcd :=
  { c with dispOn := disp, cursorOn := cursor, blinkOn := blink }

/-- A move of the display window by one place. DEDUCED: right for R/L = 1 and left for 0 (R97, R70; log 11). DESIGN
CHOICE: the place is an unbounded count, which never wraps around the row (log 11). -/
def moveWindow (rl : Flag) (c : Lcd) : Lcd := { c with window := if rl = 1 then c.window + 1 else c.window - 1 }

/-- Cursor or display shift (R70): a cursor move, after which a data read is valid, or a move of the window. -/
def lcdShift (sc rl : Flag) (c : Lcd) : Lcd :=
  if sc = 0 then { moveAc (rl == 1) c with rdok := true } else moveWindow rl c

/-- Function set (R71). -/
def lcdFunctionSet (dl n f : Flag) (c : Lcd) : Lcd := { c with dl := dl, n := n, f := f }

/-- Set CGRAM address: it refuses the reference model for the rest of the run (R72, I16), so nothing is known of the
controller from here on. The block itself goes on (I16). -/
def lcdSetCgram (c : Lcd) : Lcd := anyController { c with offModel := true }

/-- Set DDRAM address (R73). -/
def lcdSetDdram (addr : BitVec 7) (c : Lcd) : Lcd := { c with ac := addr, rdok := true }

/-- The effect of a command on the controller; a request is no command and has none. -/
def lcdCommand (i : Instr) (c : Lcd) : Lcd :=
  match i with
  | .cmdClear => lcdClear c
  | .cmdHome => lcdHome c
  | .cmdEntry i sh => lcdEntry i sh c
  | .cmdDisplay d k b => lcdDisplay d k b c
  | .cmdShift sc rl => lcdShift sc rl c
  | .cmdFunctionSet dl n f => lcdFunctionSet dl n f c
  | .cmdSetCgram _ => lcdSetCgram c
  | .cmdSetDdram a => lcdSetDdram a c
  | .init => c
  | .write _ _ => c
  | .read _ => c
  | .busy => c
  | .clear => c
  | .home => c
  | .entry _ => c
  | .display _ => c
  | .configure _ _ => c
  | .setaddr _ => c
  | .line _ => c
  | .feed _ => c
  | .ldcur _ _ => c

/-- Store a byte at AC. A write to an unimplemented address has no defined effect (R63), so DDRAM is then any
contents (log 12). -/
def storeGlyph (b : Byte) (c : Lcd) : Lcd :=
  if Memory.implemented c.n c.ac.toNat then { c with ddram := Memory.write c.ddram c.ac.toNat b }
  else { c with ddram := Memory.any c.fresh, fresh := c.fresh + Memory.size }

/-- With `SH = 1` the display window also shifts; R74 states no direction, so it is a free value. -/
def shiftWindow (c : Lcd) : Lcd :=
  if c.shift = 1 then { moveWindow (Config.anyBits 1 c.fresh) c with fresh := c.fresh + 1 } else c

/-- Data write (R74). -/
def lcdDataWrite (b : Byte) (c : Lcd) : Lcd :=
  { shiftWindow (moveAc (c.incr == 1) (storeGlyph b c)) with rdok := false }

/-- The byte a data read returns: the cell at AC when it is implemented and the read is valid, else any value,
the draw `d` (R63, R75, I9, I11). -/
def dataReadValue (d : Byte) (c : Lcd) : Byte :=
  if c.rdok && Memory.implemented c.n c.ac.toNat then Memory.read c.ddram c.ac.toNat else d

/-- What a data read does to the controller (R75). -/
def lcdDataRead (c : Lcd) : Lcd := { moveAc (c.incr == 1) c with rdok := true }

/-- A frame that writes a set-CGRAM byte, `c[7:6] = 0b01`, to `C` (R72). -/
def Frame.setsCgram (f : Frame) : Bool := f.rs == .C && f.payload.extractLsb' 6 2 == 1

/-- A written frame is latched: the controller holds it until it has executed it (R77), and a set-CGRAM byte refuses
the reference model at once (R72). -/
def latchIn (f : Frame) (c : Lcd) : Lcd := { c with pending := some f, offModel := c.offModel || f.setsCgram }

/-- The controller executes a frame it has latched: a data write, or the command the byte is. A byte with no
command in it has any effect (R65, I10), and so has every frame once the reference model is refused (R72). -/
def executeFrame (f : Frame) (c : Lcd) : Lcd :=
  if c.offModel then anyController c
  else match f.rs with
    | .D => lcdDataWrite f.payload c
    | .C =>
      match decode (.command f.payload) with
      | .ok i => lcdCommand i c
      | .error _ => anyController c

/-- The controller finishes the frame it has latched, if there is one: its busy flag becomes 0 (R77). -/
def finishPending (c : Lcd) : Lcd :=
  match c.pending with
  | none => c
  | some f => executeFrame f { c with pending := none }

/-- What the controller answers to a read of `C` whose draw is `d`: `{BF, AC}`, and its state after it (R76).
Bit 7 of the draw says whether a frame still pending stays so (R77). Once the reference model is refused the answer is
the draw (R60, R72). -/
def referenceStatus (d : Byte) (c : Lcd) : Byte × Lcd :=
  let c1 := if d.getLsbD 7 then c else finishPending c
  if c1.offModel then (d, c1) else (BitVec.ofBool c1.pending.isSome ++ c1.ac, c1)

/-- The controller after its power-up (R78): the power-on state and, in NIBBLE4, 4-bit mode (R242, R254); where the
supply rise is not met, every piece of its state is any value (I17). A refusal of the reference model lasts (R72). -/
def lcdPowerUp (m : BusMode) (riseMet : Bool) (c : Lcd) : Lcd :=
  if riseMet then { Lcd.booted m with offModel := c.offModel, fresh := c.fresh } else anyPending (anyController c)

/-- What the controller answers to a read of `D` whose draw is `d`, and its state after it (R75). -/
def referenceData (d : Byte) (c : Lcd) : Byte × Lcd :=
  if c.offModel then (d, c) else (dataReadValue d c, lcdDataRead c)

/-- The reference controller's answer to a read of register `r`. -/
def referenceAnswer (r : Rs) (d : Byte) (c : Lcd) : Byte × Lcd :=
  match r with
  | .C => referenceStatus d c
  | .D => referenceData d c

end Sys2Proof.Machine
end

