-- ==== Sys2Proof/Machine/Ops.lean ====
section
/-! DEFINITION. The shared operations of the block: the controller's answers (R60), the micro-operations and the
sequences of R123 to R129, the sequencer (R21), the execution cycle (R120), ending a request with an error (R212)
and block reset (R240). -/
namespace Sys2Proof.Machine

/-! ### The controller's answers -/

/-- The `k`-th controller answer from here on: one supplied in advance, else a free value (R60). -/
def State.drawAt (s : State) (k : Nat) : Byte := (s.answers[k]?).getD (Config.answer (s.reads + k))

/-- One raw read has taken its answer. -/
def State.drawn (s : State) : State := { s with answers := s.answers.tail, reads := s.reads + 1 }

/-- The byte the controller drives on a read of register `r` (R60): a draw, or the reference model's answer. -/
def State.answer (r : Rs) (s : State) : Byte :=
  match s.params.controller with
  | .draws => s.drawAt 0
  | .reference => (referenceAnswer r (s.drawAt 0) s.lcd).1

/-- The reference controller after it has answered; a controller whose answers are draws is not followed. -/
def State.lcdAnswered (r : Rs) (s : State) : Lcd :=
  match s.params.controller with
  | .draws => s.lcd
  | .reference => (referenceAnswer r (s.drawAt 0) s.lcd).2

/-- The state after the controller has answered. -/
def State.answered (r : Rs) (s : State) : State := { s.drawn with lcd := s.lcdAnswered r }

/-! ### Micro-operations -/

/-- `emit E` (R8). -/
def State.emit (ev : Event) (s : State) : State := { s with trace := s.trace ++ [ev] }

/-- The byte the last RawRead sampled: `join(lo, hi)` (R128, R129). -/
def State.rxByte (s : State) : Byte := join s.rxLo s.rxHi

/-- A frame reaches the controller: the reference controller holds it until it has executed it (R77); a controller
whose answers are draws is not followed. -/
def lcdDelivered (k : ControllerKind) (f : Frame) (c : Lcd) : Lcd :=
  match k with
  | .draws => c
  | .reference => latchIn f c

/-- The byte on the data pins when a RawWrite's last `E <- 0` latches it (R126, R127). -/
def busByte (s : State) : Byte :=
  match s.params.busMode with
  | .split8 => join s.pins.dbLoOut s.pins.dbHiOut
  | .nibble4 => join s.pins.dbHiOut (split s.wire).2

/-- The frame on the pins. -/
def busFrame (s : State) : Frame := { rs := rsOfLevel s.pins.rs, payload := busByte s }

/-- The last `E <- 0` of a RawWrite: the controller latches what is on the pins, and `WR(rs, b)` is recorded. -/
def latchFrame (r : Rs) (s : State) : State :=
  { s.emit (.wr r s.tx) with
    pins := { s.pins with e := false }
    lcd := lcdDelivered s.params.controller (busFrame s) s.lcd }

/-- The register the RS pin selects (R122). -/
def State.selected (s : State) : Rs := rsOfLevel s.pins.rs

/-- `E <- 1` of a SPLIT8 read: the controller drives its answer on both segments (R128). The levels stay when it drives
no more (log 24). -/
def driveAnswer (s : State) : State :=
  { s.answered s.selected with
    pins :=
      { s.pins with
        e := true
        dbLoIn := (split (s.answer s.selected)).1
        dbHiIn := (split (s.answer s.selected)).2 } }

/-- The first `E <- 1` of a NIBBLE4 read: the controller drives the high nibble of its answer (R129). The levels
stay when it drives no more, and those of `DB_LO_IN` throughout (log 24). -/
def driveAnswerHigh (s : State) : State :=
  { s.answered s.selected with
    wire := s.answer s.selected
    pins := { s.pins with e := true, dbHiIn := (split (s.answer s.selected)).2 } }

/-- POLLCNT after one more busy-check read, where it exists (R37). -/
def pollCount (s : State) : Nat :=
  match s.params.busyTimeout with
  | none => s.pollcnt
  | some _ => s.pollcnt + 1

/-- The updates of the request in REQL (R22, R31). -/
def committedRegs (s : State) : Regs :=
  match decode (.request s.reql) with
  | .ok i => commitOf s.params s.acc i s.regs
  | .error _ => s.regs

/-- The completion of a request (R31, R120): its updates together with `STATUS.ERR <- 0`. The register part of the
step that returns STEP to IDLE. -/
def commitRequest (s : State) : State := { s with regs := { committedRegs s with err := .ok } }

/-- One micro-operation (R21, R121). Where the sequence goes after `pollTest` is `runSeq`'s part. -/
def micro (op : MicroOp) (s : State) : State :=
  match op with
  | .ctrlOe v => { s with pins := { s.pins with ctrlOe := v } }
  | .rs r => { s with pins := { s.pins with rs := rsLevel r } }
  | .rw v => { s with pins := { s.pins with rw := v } }
  | .e v => { s with pins := { s.pins with e := v } }
  | .dbOe v => { s with pins := { s.pins with dbOe := v } }
  | .load b => { s with tx := b }
  | .loadTarget => { s with tx := crJumpByte (addressOf s.acc) }
  | .driveLo => { s with pins := { s.pins with dbLoOut := (split s.tx).1 } }
  | .driveHi => { s with pins := { s.pins with dbHiOut := (split s.tx).2 } }
  | .driveHiLow => { s with pins := { s.pins with dbHiOut := (split s.tx).1 } }
  | .latchHigh => { s with pins := { s.pins with e := false }, wire := join 0 s.pins.dbHiOut }
  | .latch r => latchFrame r s
  | .answer => driveAnswer s
  | .answerHigh => driveAnswerHigh s
  | .answerLow => { s with pins := { s.pins with e := true, dbHiIn := (split s.wire).1 } }
  | .sampleLo => { s with rxLo := s.pins.dbLoIn }
  | .sampleHi => { s with rxHi := s.pins.dbHiIn }
  | .sampleHiAsLo => { s with rxLo := s.pins.dbHiIn }
  | .pollInit => { s with pollcnt := 0 }
  | .pollTest => { s.emit (.poll s.rxByte) with pollcnt := pollCount s }
  | .pollOnce => { s.emit (.poll s.rxByte) with acc := s.rxByte }
  | .rd r => { s.emit (.rd r s.rxByte) with acc := s.rxByte }
  | .commit => commitRequest s

/-! ### Sequences of micro-operations -/

/-- `RawWrite(rs, b)`, `b` already loaded (R126, R127). -/
def rawWriteOps : BusMode → Rs → List MicroOp
  | .split8, r => [.rs r, .rw false, .e true, .driveLo, .driveHi, .latch r]
  | .nibble4, r => [.rs r, .rw false, .e true, .driveHi, .latchHigh, .e true, .driveHiLow, .latch r]

/-- `RawRead(rs)` (R128, R129). -/
def rawReadOps : BusMode → Rs → List MicroOp
  | .split8, r =>
    [.dbOe false, .rs r, .rw true, .answer, .sampleLo, .sampleHi, .e false, .rw false, .dbOe true]
  | .nibble4, r =>
    [.dbOe false, .rs r, .rw true, .answerHigh, .sampleHi, .e false, .answerLow, .sampleHiAsLo, .e false, .rw false,
      .dbOe true]

/-- One round of the PollBusy loop: a busy check and its test (R125). -/
def pollRoundOps (m : BusMode) : List MicroOp := rawReadOps m .C ++ [.pollTest]

/-- `PollBusy()` (R125). -/
def pollBusyOps (m : BusMode) : List MicroOp := .pollInit :: pollRoundOps m

/-- `BusWrite(rs, b)` (R124). -/
def busWriteOps (m : BusMode) (r : Rs) (b : Byte) : List MicroOp := .load b :: (pollBusyOps m ++ rawWriteOps m r)

/-- `BusRead(rs)` (R123). -/
def busReadOps (m : BusMode) (r : Rs) : List MicroOp := pollBusyOps m ++ (rawReadOps m r ++ [.rd r])

/-! ### The sequencer -/

/-- End a request with an error (R212): stop its sequence, commit nothing, `STATUS.ERR <- code`, STEP to IDLE. -/
def raiseError (code : ErrCode) (s : State) : State := { s with seq := [], regs := { s.regs with err := code } }

/-- The poll bound is reached: `n == BUSY_TIMEOUT` (R125, R215). -/
def timedOut (s : State) : Bool := s.params.busyTimeout == some s.pollcnt

/-- Perform micro-operations in order (R21), at most `q` of them when `q` is a number. The turn ends when the
request completes, when it ends with BUS_TIMEOUT, when `q` is used up, or when a busy check answers busy: STEP
then goes back to the start of the poll round, the one backward move (R21, R125), and a later turn repeats it. -/
def runSeq : Option Nat → List MicroOp → State → State
  | _, [], s => { s with seq := [] }
  | q, op :: rest, s =>
    if q = some 0 then { s with seq := op :: rest }
    else if op = .pollTest ∧ busyFlag s.rxByte then
      if timedOut (micro op s) then raiseError .busTimeout (micro op s)
      else { micro op s with seq := pollRoundOps s.params.busMode ++ rest }
    else runSeq (q.map (· - 1)) rest (micro op s)

/-- The execution cycle of a request on the ready block (R120): REQL, the INITD check, the sequence, the commit.
DESIGN CHOICE (log 7): acceptance, the INITD check with its NOT_INIT end, and the sequence's first stretch are one turn,
so a host access sees READY = 0 only where that turn stops short of the end. -/
def startRequest (i : Instr) (ops : List MicroOp) (s : State) : State :=
  if !s.regs.initd && i != .init then raiseError .notInit { s with reql := requestBits i }
  else runSeq s.quantum (ops ++ [.commit]) { s with reql := requestBits i }

/-- A request written while the block is busy is held, and changes nothing (R24). -/
def request (i : Instr) (ops : List MicroOp) (s : State) : State := if ready s then startRequest i ops s else s

/-- A word that is no request (R211): only REQL and `STATUS.ERR` change. DESIGN CHOICE (log 7): the word is accepted,
decoded and ended in one turn, so no host access sees READY = 0 for it. -/
def illegalRequest (w : Word16) (s : State) : State := raiseError .illegal { s with reql := w }

/-- The block's turn: go on with the current request. -/
def blockTurn (s : State) : State := if ready s then s else runSeq s.quantum s.seq s

/-! ### Boot and block reset -/

/-- Boot step 1 is done (R242). -/
def bringUpBoard (s : State) : State := { s with boardUp := true }

/-- Boot step 2 is done: the controller has powered up (R78, R242, R254). DESIGN CHOICE (log 25): the block and the byte
in flight on the pins are as they were, so a transfer under way goes on and its nibbles still pair. -/
def powerUpController (riseMet : Bool) (s : State) : State :=
  { s with lcd := lcdPowerUp s.params.busMode riseMet s.lcd, lcdUp := true }

/-- The block's own state at its reset value (R43). The input pins carry levels the block does not drive. -/
def resetBlock (s : State) : State :=
  { s with
    seq := []
    reql := 0
    regs := Regs.reset
    pollcnt := 0
    pins := { Pins.reset with dbLoIn := s.pins.dbLoIn, dbHiIn := s.pins.dbHiIn }
    tx := 0
    rxLo := 0
    rxHi := 0
    acc := 0
    wire := 0 }

/-- Block reset (R240). The controller is not reset; its state is then unspecified, so it is any (R241, I8, I15;
log 14). The trace stands: transfers already completed stand in the controller. DESIGN CHOICE (log 20): reset is one
instant, with no interval in which it stays asserted, and a host write held at `REQ` stays held over it. DESIGN CHOICE
(log 14): in NIBBLE4 the controller stays in step with nibble pairs, also over a reset between the two pulses of a byte. -/
def blockReset (s : State) : State :=
  { resetBlock s with lcd := anyPending (anyController s.lcd) }

end Sys2Proof.Machine
end

