-- ==== Sys2Proof/Machine/BlockControl.lean ====
section
/-! DEFINITION. Block control: INIT and LDCUR (43_block_control.md). -/
namespace Sys2Proof.Machine

/-- INIT's pin changes: control lines, then data lines, to output (R200). -/
def initPinOps : List MicroOp := [.ctrlOe true, .e false, .rw false, .rs .C, .dbOe true]

/-- One BusWrite to `C` per byte of `INIT_CMDS`, in order (R200), whatever the byte: DESIGN CHOICE (log 22). -/
def initCmdOps (m : BusMode) : List Byte → List MicroOp
  | [] => []
  | k :: ks => busWriteOps m .C k ++ initCmdOps m ks

/-- INIT's sequence (R200). -/
def initOps (p : Params) : List MicroOp := initPinOps ++ initCmdOps p.busMode p.initCmds

/-- INIT (R200). Before boot steps 1 and 2 it is a launch the model refuses (R242, I13); once INIT has run, they
are behind it. DESIGN CHOICE (log 10): it asks that both steps are done, in either order and whether before or after
block reset. -/
def execInit (s : State) : Host.Outcome State Fault Refusal :=
  if s.boardUp && s.lcdUp then .next (request .init (initOps s.params) s) else .refused .launchBeforeBringUp

/-- LDCUR: no bus transfer (R202). -/
def execLdcur (line : Flag) (col : Byte) (s : State) : Host.Outcome State Fault Refusal :=
  .next (request (.ldcur line col) [] s)

end Sys2Proof.Machine
end

