-- ==== Sys2Proof/Machine/BusTransport.lean ====
section
/-! DEFINITION. The Bus Transport requests: WRITE, READ and BUSY (40_bus_transport.md). -/
namespace Sys2Proof.Machine

/-- WRITE's sequence: `BusWrite(rs, b)` (R130). -/
def writeOps (p : Params) (r : Rs) (b : Byte) : List MicroOp := busWriteOps p.busMode r b

/-- WRITE (R130). -/
def execWrite (r : Rs) (b : Byte) (s : State) : Host.Outcome State Fault Refusal :=
  .next (request (.write r b) (writeOps s.params r b) s)

/-- READ's sequence: `v = BusRead(rs)` (R131). -/
def readOps (p : Params) (r : Rs) : List MicroOp := busReadOps p.busMode r

/-- READ (R131). -/
def execRead (r : Rs) (s : State) : Host.Outcome State Fault Refusal :=
  .next (request (.read r) (readOps s.params r) s)

/-- BUSY's sequence: one raw read of `C`, no PollBusy (R132). -/
def busyOps (p : Params) : List MicroOp := rawReadOps p.busMode .C ++ [.pollOnce]

/-- BUSY (R132). -/
def execBusy (s : State) : Host.Outcome State Fault Refusal :=
  .next (request .busy (busyOps s.params) s)

end Sys2Proof.Machine
end

