-- ==== Sys2Proof/Machine/CommandProtocol.lean ====
section
/-! DEFINITION. The Command/Data Protocol requests: each writes exactly one command byte to `C` through BusWrite
(41_command_protocol.md, R150). -/
namespace Sys2Proof.Machine

/-- The sequence of a request of this family: one command byte to `C` (R150). -/
def commandOps (p : Params) (c : Byte) : List MicroOp := busWriteOps p.busMode .C c

/-- CLEAR (R151). -/
def execClear (s : State) : Host.Outcome State Fault Refusal :=
  .next (request .clear (commandOps s.params cmdClearByte) s)

/-- HOME (R152). -/
def execHome (s : State) : Host.Outcome State Fault Refusal :=
  .next (request .home (commandOps s.params cmdHomeByte) s)

/-- ENTRY (R153). -/
def execEntry (inc : Flag) (s : State) : Host.Outcome State Fault Refusal :=
  .next (request (.entry inc) (commandOps s.params (entryByte inc)) s)

/-- DISPLAY (R154). -/
def execDisplay (on : Flag) (s : State) : Host.Outcome State Fault Refusal :=
  .next (request (.display on) (commandOps s.params (dispByte s.params.dispCb on)) s)

/-- CONFIGURE (R155). -/
def execConfigure (l f : Flag) (s : State) : Host.Outcome State Fault Refusal :=
  .next (request (.configure l f) (commandOps s.params (fsByte s.params.busMode l f)) s)

/-- SETADDR (R156). -/
def execSetaddr (a : Byte) (s : State) : Host.Outcome State Fault Refusal :=
  .next (request (.setaddr a) (commandOps s.params (setddByte a)) s)

/-- LINE (R157). -/
def execLine (n : Nat) (s : State) : Host.Outcome State Fault Refusal :=
  .next (request (.line n) (commandOps s.params (setddByte (lineBase n))) s)

end Sys2Proof.Machine
end

