-- ==== Sys2Proof/Machine/ControllerCommands.lean ====
section
/-! DEFINITION. The controller's command bytes (R97) as the reference controller executes them (R66 to R73). -/
namespace Sys2Proof.Machine

/-- Clear display (R66). -/
def execCmdClear (s : State) : Host.Outcome State Fault Refusal := .next { s with lcd := lcdClear s.lcd }

/-- Return home (R67). -/
def execCmdHome (s : State) : Host.Outcome State Fault Refusal := .next { s with lcd := lcdHome s.lcd }

/-- Entry mode set (R68). -/
def execCmdEntry (incr shift : Flag) (s : State) : Host.Outcome State Fault Refusal := .next { s with lcd := lcdEntry incr shift s.lcd }

/-- Display on/off control (R69). -/
def execCmdDisplay (disp cursor blink : Flag) (s : State) : Host.Outcome State Fault Refusal :=
  .next { s with lcd := lcdDisplay disp cursor blink s.lcd }

/-- Cursor or display shift (R70). -/
def execCmdShift (sc rl : Flag) (s : State) : Host.Outcome State Fault Refusal := .next { s with lcd := lcdShift sc rl s.lcd }

/-- Function set (R71). -/
def execCmdFunctionSet (dl n f : Flag) (s : State) : Host.Outcome State Fault Refusal :=
  .next { s with lcd := lcdFunctionSet dl n f s.lcd }

/-- Set CGRAM address: it refuses the reference model for the rest of the run (R72, I16). CGRAM itself, and so the
address, is out of scope (R4). -/
def execCmdSetCgram (_addr : BitVec 6) (s : State) : Host.Outcome State Fault Refusal :=
  .next { s with lcd := lcdSetCgram s.lcd }

/-- Set DDRAM address (R73). -/
def execCmdSetDdram (addr : BitVec 7) (s : State) : Host.Outcome State Fault Refusal := .next { s with lcd := lcdSetDdram addr s.lcd }

end Sys2Proof.Machine
end

