-- ==== Sys2Proof/Machine/TextStream.lean ====
section
/-! DEFINITION. The Text Stream State Machine: FEED (42_text_stream.md). -/
namespace Sys2Proof.Machine

/-- Backspace: cursor left, entry mode increment, a space glyph, cursor left (R174). -/
def feedBsOps (m : BusMode) : List MicroOp :=
  busWriteOps m .C cmdLeftByte ++ (busWriteOps m .C (entryByte 1) ++
    (busWriteOps m .D spaceGlyph ++ busWriteOps m .C cmdLeftByte))

/-- The jump that ends the CR path: a BusWrite to `C` of the other line's start, by the address read (R175). -/
def crJumpOps (m : BusMode) : List MicroOp := .loadTarget :: (pollBusyOps m ++ rawWriteOps m .C)

/-- Carriage return: the display configuration, the address read, the jump (R175). -/
def feedCrOps (m : BusMode) (c : DisplayConfig) : List MicroOp :=
  busWriteOps m .C (fsByte m c.lines c.font) ++ (busReadOps m .C ++ crJumpOps m)

/-- A printable byte: entry mode auto-increment, the glyph (R177). -/
def feedPrintableOps (m : BusMode) (c : Byte) : List MicroOp :=
  busWriteOps m .C (entryByte 1) ++ busWriteOps m .D c

/-- FEED's sequence by class; a line feed has none (R170, R176). -/
def feedOps (p : Params) (cfg : DisplayConfig) (c : Byte) : List MicroOp :=
  match classOf c with
  | .bs => feedBsOps p.busMode
  | .cr => feedCrOps p.busMode (crConfig p cfg)
  | .lf => []
  | .printable => feedPrintableOps p.busMode c

/-- FEED (R170). -/
def execFeed (c : Byte) (s : State) : Host.Outcome State Fault Refusal :=
  .next (request (.feed c) (feedOps s.params s.regs.cfg c) s)

end Sys2Proof.Machine
end

