-- ==== Sys2Proof/Machine/Dispatch.lean ====
section
/-! DEFINITION. One arm per instruction of the opcode table. -/
namespace Sys2Proof.Machine

def exec (i : Instr) (s : State) : Host.Outcome State Fault Refusal :=
  match i with
  | .init => Sys2Proof.Machine.execInit s
  | .write rs payload => Sys2Proof.Machine.execWrite rs payload s
  | .read rs => Sys2Proof.Machine.execRead rs s
  | .busy => Sys2Proof.Machine.execBusy s
  | .clear => Sys2Proof.Machine.execClear s
  | .home => Sys2Proof.Machine.execHome s
  | .entry increment => Sys2Proof.Machine.execEntry increment s
  | .display on => Sys2Proof.Machine.execDisplay on s
  | .configure lines font => Sys2Proof.Machine.execConfigure lines font s
  | .setaddr addr => Sys2Proof.Machine.execSetaddr addr s
  | .line n => Sys2Proof.Machine.execLine n s
  | .feed char => Sys2Proof.Machine.execFeed char s
  | .ldcur line col => Sys2Proof.Machine.execLdcur line col s
  | .cmdClear => Sys2Proof.Machine.execCmdClear s
  | .cmdHome => Sys2Proof.Machine.execCmdHome s
  | .cmdEntry incr shift => Sys2Proof.Machine.execCmdEntry incr shift s
  | .cmdDisplay disp cursor blink => Sys2Proof.Machine.execCmdDisplay disp cursor blink s
  | .cmdShift sc rl => Sys2Proof.Machine.execCmdShift sc rl s
  | .cmdFunctionSet dl n f => Sys2Proof.Machine.execCmdFunctionSet dl n f s
  | .cmdSetCgram addr => Sys2Proof.Machine.execCmdSetCgram addr s
  | .cmdSetDdram addr => Sys2Proof.Machine.execCmdSetDdram addr s

end Sys2Proof.Machine
end

