-- ==== Sys2Proof/Machine/Agents.lean ====
section
/-! DEFINITION. The turns of the three agents (R5): what the host's next access does (R24 to R30), and what the
controller's next frame does (R55, R60). The block's turn, block reset and the boot steps are operations of Ops. -/
namespace Sys2Proof.Machine

/-- A host write to `REQ` on the ready block: accepted at once and executed (R24, R120). -/
def acceptWrite (data : Word32) (s : State) : Host.Outcome State Fault Refusal :=
  match decodeWrite data with
  | .ok i => exec i s
  | .error _ => .next (illegalRequest (data.extractLsb' 0 16) s)

/-- A host write (R24, R29): to `REQ`, held while the block is busy; to any other offset, ignored.
`waiting` is the state while the access is still to come, `done` the state without it. -/
def hostWrite (offset : Byte) (data : Word32) (waiting done : State) : Host.Outcome State Fault Refusal :=
  if offset = 0 then if ready waiting then acceptWrite data done else .next waiting
  else .next done

/-- The host's turn (R223): its next access in program order, or none. -/
def hostTurn (s : State) : Host.Outcome State Fault Refusal :=
  match s.hostQ with
  | [] => .next s
  | .read offset width :: rest =>
    if alignedWord offset width then .next { s with hostQ := rest, hostData := readWindow s offset }
    else .refused .hostAccessNotAlignedWord
  | .write offset width data :: rest =>
    if alignedWord offset width then hostWrite offset data s { s with hostQ := rest }
    else .refused .hostAccessNotAlignedWord

/-- The controller takes the frame it has latched: its busy flag's reason is gone once the frame is executed. -/
def takeFrame (s : State) : State := { s with lcd := { s.lcd with pending := none } }

/-- The controller executes a byte written to `C`: an instruction of the opcode table (R65, R97), or a byte with no
command in it, which has any effect (I10). -/
def executeCommandByte (b : Byte) (s : State) : Host.Outcome State Fault Refusal :=
  match decode (.command b) with
  | .ok i => exec i s
  | .error _ => .next { s with lcd := anyController s.lcd }

/-- The controller executes a frame, as the reference model says (R65 to R74). -/
def executeHeldFrame (f : Frame) (s : State) : Host.Outcome State Fault Refusal :=
  match f.rs with
  | .C => executeCommandByte f.payload s
  | .D => .next { s with lcd := lcdDataWrite f.payload s.lcd }

/-- The controller's turn: it executes the frame it has latched, if there is one. Once the reference model is refused
the frame has any effect (R72). -/
def controllerTurn (s : State) : Host.Outcome State Fault Refusal :=
  match s.lcd.pending with
  | none => .next s
  | some f =>
    if s.lcd.offModel then .next { takeFrame s with lcd := anyController (takeFrame s).lcd }
    else executeHeldFrame f (takeFrame s)

/-- Whose turn it is: as planned, else the block's while a request is running, else the controller's while it has
a frame to execute, else the host's (log 6). -/
def nextTurn (s : State) : Turn :=
  match s.turns with
  | t :: _ => t
  | [] => if !ready s then .block else if s.lcd.pending.isSome then .controller else .host

/-- One turn of one agent, or one event from outside. -/
def takeTurn (t : Turn) (s : State) : Host.Outcome State Fault Refusal :=
  match t with
  | .host => hostTurn s
  | .block => .next (blockTurn s)
  | .controller => controllerTurn s
  | .blockReset => .next (blockReset s)
  | .boardBringUp => .next (bringUpBoard s)
  | .controllerPowerUp riseMet => .next (powerUpController riseMet s)

end Sys2Proof.Machine
end

