-- ==== Sys2Proof/Machine/Step.lean ====
section
/-! DEFINITION. One step of the machine: one turn of one agent, or one event from outside; and where a step fetches its next instruction. -/
namespace Sys2Proof.Machine

/-- One step. -/
def step (s : State) : Host.Outcome State Fault Refusal := takeTurn (nextTurn s) { s with turns := s.turns.tail }

/-- `s` with an instruction of the opcode table placed where the very next step runs it: a command byte latched by
the controller, on its turn, with the reference model not refused; or a request word the host writes to `REQ` of the ready block, on its turn. -/
def State.withFetchWord (s : State) (nbits w : Nat) : State :=
  if nbits ≤ 8 then
    { s with
      lcd := { s.lcd with pending := some { rs := .C, payload := BitVec.ofNat 8 w }, offModel := false }
      turns := .controller :: s.turns }
  else
    { s with
      seq := []
      hostQ := .write 0 .word (BitVec.ofNat 32 w) :: s.hostQ
      turns := .host :: s.turns }

end Sys2Proof.Machine
end

