-- ==== Sys2Proof/Machine/HostPrograms.lean ====
section
/-! DEFINITION. The assembler's view of the host (R107): the syntax of a request, the pseudo-instructions and their
expansions, and the source's counter threading (R173). -/
namespace Sys2Proof.Machine

/-- The host write that submits a request (R24). -/
def submit (i : Instr) : HostEvent := .write 0 .word ((requestBits i).setWidth 32)

/-- `PUTS`: FEED per byte, up to and not including the first NUL (R107). -/
def puts (str : List Byte) : List Instr := (str.takeWhile (· != 0)).map .feed

/-- `NEWLINE`: FEED CR, then FEED LF (R107). -/
def newline : List Instr := [.feed charCr, .feed charLf]

/-- `SWAPLINES` on the word `CUR` reads as: LINE 2 if `CUR.LINE = 0`, else LINE 1 (R107). -/
def swapLines (cur : Word32) : Instr := if cur.getLsbD 8 then .line 1 else .line 2

/-- `WRAPCHECK` on the words `RESP` and `CUR` read as: SWAPLINES when `RESP > COLS - 1` (R107, R178). -/
def wrapCheck (resp cur : Word32) : List Instr := if resp.toNat > cols - 1 then [swapLines cur] else []

/-- The requests of `counter' = feed(c, counter)` (R173): LDCUR of the current line and the host's counter, then
FEED; the host then reads `RESP`. -/
def threadCounter (line : Flag) (counter c : Byte) : List Instr := [.ldcur line counter, .feed c]

end Sys2Proof.Machine
end

