-- ==== Sys2Proof/Safety.lean ====
section
/-! DEFINITION. What the statements speak about: when a request runs to its end, what a frame leaves unchanged,
and the invariants of the bus: the pins (R34, R36, R133, R245), the busy handshake (R57, R125) and the place of the
commit (R31). -/
namespace Sys2Proof.Machine

/-! ### When a request runs -/

/-- The block takes a request and runs it in one turn: it is ready, initialised, and its turn is unbounded. -/
abbrev State.Accepting (s : State) : Prop := s.seq = [] ∧ s.regs.initd = true ∧ s.quantum = none

/-- The next `k` controller answers have bit 7 = 0: no busy check among them waits (R250). -/
abbrev State.Quiet (s : State) (k : Nat) : Prop := ∀ j < k, busyFlag (s.drawAt j) = false

/-- `v` is a clear busy check; where answers are draws, it is the `k`-th one from `s`. -/
abbrev State.ClearAnswer (s : State) (k : Nat) (v : Byte) : Prop :=
  busyFlag v = false ∧ (s.params.controller = .draws → v = s.drawAt k)

/-- The function-set byte of R100, from its table: 0x30 in SPLIT8 and 0x20 in NIBBLE4, plus 8 for two lines and 4
for the 5x11 font. -/
def functionSetValue (m : BusMode) (l f : Flag) : Nat :=
  (match m with
    | .split8 => 0x30
    | .nibble4 => 0x20) + (if l = 1 then 8 else 0) + (if f = 1 then 4 else 0)

/-! ### Frames -/

/-- What no request changes: the parameters, the host's side, the scheduling and the boot steps. -/
abbrev Surroundings (s t : State) : Prop :=
  t.params = s.params ∧ t.hostQ = s.hostQ ∧ t.hostData = s.hostData ∧ t.turns = s.turns ∧ t.quantum = s.quantum ∧
    t.boardUp = s.boardUp ∧ t.lcdUp = s.lcdUp

/-- Only the controller's state differs. -/
abbrev OnlyController (s t : State) : Prop := t = { s with lcd := t.lcd }

/-- The levels of the pins between requests once INIT has run (R36). -/
abbrev IdlePins (p : Pins) : Prop := p.e = false ∧ p.rw = false ∧ p.dbOe = true ∧ p.ctrlOe = true

/-- The block is idle again after request `i`, having added `evs` to the bus trace. -/
abbrev Finished (i : Instr) (evs : List Event) (s t : State) : Prop :=
  t.seq = [] ∧ t.reql = requestBits i ∧ t.trace = s.trace ++ evs ∧ Surroundings s t

/-- The reference controller has executed the frames `fs` and holds the frame `last` (log 16), which refuses it if it
is a set-CGRAM byte (log 17); a controller whose answers are draws is not followed (log 3). -/
abbrev Delivered (fs : List Frame) (last : Frame) (s t : State) : Prop :=
  (s.params.controller = .draws → t.lcd = s.lcd) ∧
    (s.params.controller = .reference →
      t.lcd = latchIn last (fs.foldl (fun c f => executeFrame f c) (finishPending s.lcd)))

/-- What a reference controller `c` that is not refused answers to a read of `C` whose draw is `d`, and its state after
it: `{1, AC}`, unchanged, while it holds a frame and the draw keeps it busy; else `{0, AC}` of the controller that has
finished its frame (R76, R77; log 16). Where finishing the frame refuses it, the answer is any (R72). -/
abbrev AnswersStatus (d : Byte) (c : Lcd) (v : Byte) (after : Lcd) : Prop :=
  if d.getLsbD 7 = true ∧ c.pending ≠ none then v.toNat = 0x80 + c.ac.toNat ∧ after = c
  else after = finishPending c ∧ (after.offModel = false → v.toNat = after.ac.toNat)

/-! ### What each request does (R40, R26, R27, R106) -/

/-- The requests that write `CUR` (R40). -/
abbrev WritesCur (i : Instr) : Prop :=
  i = .init ∨ i = .clear ∨ i = .home ∨ (∃ n, i = .line n) ∨ (∃ c, i = .feed c ∧ c ≠ 0x0A) ∨ ∃ l c, i = .ldcur l c

/-- The requests that write `CUR.LINE` (R40). -/
abbrev WritesLine (i : Instr) : Prop :=
  i = .init ∨ i = .clear ∨ i = .home ∨ (∃ n, i = .line n) ∨ i = .feed 0x0D ∨ ∃ l c, i = .ldcur l c

/-- The requests that write `CFG` (R27). -/
abbrev WritesCfg (i : Instr) : Prop := i = .init ∨ (∃ l f, i = .configure l f) ∨ i = .feed 0x0D

/-- The requests that write `RESP` (R26). -/
abbrev WritesResp (i : Instr) : Prop := (∃ r, i = .read r) ∨ i = .busy ∨ ∃ c, i = .feed c

/-- A transfer that is no busy check. -/
def isTransfer : Event → Bool
  | .poll _ => false
  | .wr _ _ => true
  | .rd _ _ => true

/-- The function-set byte the CR path re-applies (R175). -/
def crFunctionSet (p : Params) (cfg : DisplayConfig) : Byte :=
  match p.crCfg with
  | .fixed2L5x11 => BitVec.ofNat 8 (functionSetValue p.busMode 1 1)
  | .current => BitVec.ofNat 8 (functionSetValue p.busMode cfg.lines cfg.font)

/-- The transfers of a request in order, its busy checks apart (R106); `v` is the byte its own read returns. -/
def requestTransfers (p : Params) (cfg : DisplayConfig) (v : Byte) (i : Instr) : List Event :=
  match i with
  | .init => p.initCmds.map (.wr .C)
  | .write r b => [.wr r b]
  | .read r => [.rd r v]
  | .busy => []
  | .clear => [.wr .C 0x01]
  | .home => [.wr .C 0x02]
  | .entry inc => [.wr .C (if inc = 1 then 0x06 else 0x04)]
  | .display on => [.wr .C ((if on = 1 then 0x0C else 0x08) ||| p.dispCb.setWidth 8)]
  | .configure l f => [.wr .C (BitVec.ofNat 8 (functionSetValue p.busMode l f))]
  | .setaddr a => [.wr .C (0x80 ||| a)]
  | .line n => [.wr .C (if n = 1 then 0x80 else 0xC0)]
  | .feed c =>
    if c = 0x7F then [.wr .C 0x10, .wr .C 0x06, .wr .D 0x20, .wr .C 0x10]
    else if c = 0x0D then
      [.wr .C (crFunctionSet p cfg), .rd .C v, .wr .C (if 0x40 ≤ v.toNat % 0x80 then 0x80 else 0xC0)]
    else if c = 0x0A then []
    else [.wr .C 0x06, .wr .D c]
  | .ldcur _ _ => []
  | .cmdClear => []
  | .cmdHome => []
  | .cmdEntry _ _ => []
  | .cmdDisplay _ _ _ => []
  | .cmdShift _ _ => []
  | .cmdFunctionSet _ _ _ => []
  | .cmdSetCgram _ => []
  | .cmdSetDdram _ => []

/-- Which of the controller's answers to a request are its PollBusy checks, when each is clear: their places in the
order of its raw reads (R106, R123 to R125). BUSY's own check is none (R132). -/
def pollDraws (p : Params) (i : Instr) : List Nat :=
  match i with
  | .init => List.range p.initCmds.length
  | .write _ _ => [0]
  | .read _ => [0]
  | .busy => []
  | .clear => [0]
  | .home => [0]
  | .entry _ => [0]
  | .display _ => [0]
  | .configure _ _ => [0]
  | .setaddr _ => [0]
  | .line _ => [0]
  | .feed c => if c = 0x7F then [0, 1, 2, 3] else if c = 0x0D then [0, 1, 3] else if c = 0x0A then [] else [0, 1]
  | .ldcur _ _ => []
  | .cmdClear => []
  | .cmdHome => []
  | .cmdEntry _ _ => []
  | .cmdDisplay _ _ _ => []
  | .cmdShift _ _ => []
  | .cmdFunctionSet _ _ _ => []
  | .cmdSetCgram _ => []
  | .cmdSetDdram _ => []

/-- Request `i` has ended with BUS_TIMEOUT after the events `evs` (R212, R215): no register but ERR, STEP idle, and the
pins as a finished read leaves them. -/
abbrev TimedOut (i : Instr) (evs : List Event) (s t : State) : Prop :=
  t.seq = [] ∧ t.reql = requestBits i ∧ t.regs = { s.regs with err := .busTimeout } ∧ t.trace = s.trace ++ evs ∧
    t.pins.e = false ∧ t.pins.rw = false ∧ t.pins.dbOe = true

/-! ### The pins -/

/-- The control side of the pins: `E`, `RW`, `CTRL_OE`, `DB_OE`. -/
structure Control where
  e : Bool
  rw : Bool
  ctrlOe : Bool
  dbOe : Bool
deriving DecidableEq, Repr

/-- The control side of a set of pins. -/
def controlOf (p : Pins) : Control where
  e := p.e
  rw := p.rw
  ctrlOe := p.ctrlOe
  dbOe := p.dbOe

/-- The control levels between requests (R36). -/
def Control.idle : Control where
  e := false
  rw := false
  ctrlOe := true
  dbOe := true

/-- What a micro-operation does to the control levels. -/
def controlAfter (op : MicroOp) (c : Control) : Control :=
  match op with
  | .ctrlOe v => { c with ctrlOe := v }
  | .rw v => { c with rw := v }
  | .e v => { c with e := v }
  | .dbOe v => { c with dbOe := v }
  | .latchHigh => { c with e := false }
  | .latch _ => { c with e := false }
  | .answer => { c with e := true }
  | .answerHigh => { c with e := true }
  | .answerLow => { c with e := true }
  | .rs _ => c
  | .load _ => c
  | .loadTarget => c
  | .driveLo => c
  | .driveHi => c
  | .driveHiLow => c
  | .sampleLo => c
  | .sampleHi => c
  | .sampleHiAsLo => c
  | .pollInit => c
  | .pollTest => c
  | .pollOnce => c
  | .rd _ => c
  | .commit => c

/-- The block and the controller are never both set to drive the data pins: `RW = 1` only with `DB_OE = 0` (R245). -/
def Control.noContention (c : Control) : Bool := !(c.rw && c.dbOe)

/-- The levels at which a micro-operation may be performed (R126 to R129, R133, R245): data leaves only onto driven
pins of a write; it is sampled only while `E = 1` of a read with the block's drivers off; the drivers come on, and
`RW` rises, only with `E = 0` and the other off; a request can end (by its commit, or by a busy check that times out)
only at the idle levels. -/
def levelsFor (op : MicroOp) (c : Control) : Bool :=
  match op with
  | .driveLo | .driveHi | .driveHiLow | .latchHigh | .latch _ => c.e && !c.rw && c.ctrlOe && c.dbOe
  | .answer | .answerHigh | .answerLow => !c.e && c.rw && c.ctrlOe && !c.dbOe
  | .sampleLo | .sampleHi | .sampleHiAsLo => c.e && c.rw && c.ctrlOe && !c.dbOe
  | .pollTest | .pollOnce | .rd _ | .commit => c == Control.idle
  | .dbOe v => !v || (!c.e && !c.rw)
  | .rw v => !v || (!c.e && !c.dbOe)
  | .ctrlOe _ | .rs _ | .e _ | .load _ | .loadTarget | .pollInit => true

/-- From levels `c`, each micro-operation of the sequence meets the levels it needs, none causes contention, and
the sequence ends at the idle levels. -/
def settles : List MicroOp → Control → Bool
  | [], c => c == Control.idle
  | op :: ops, c => levelsFor op c && (controlAfter op c).noContention && settles ops (controlAfter op c)

/-- The pins released, with no pulse under way, as block reset leaves them (R43, R240). -/
abbrev ReleasedPins (p : Pins) : Prop := p.e = false ∧ p.rw = false ∧ p.dbOe = false ∧ p.ctrlOe = false

/-- The pin invariant: no contention now; while a request runs, the rest of its sequence is safe and settles; and
between requests the pins are idle, or still released before the first INIT (R34, R36, R133, R245). -/
abbrev PinsSafe (s : State) : Prop :=
  (controlOf s.pins).noContention = true ∧ (s.seq ≠ [] → settles s.seq (controlOf s.pins) = true) ∧
    (s.seq = [] → IdlePins s.pins ∨ (s.regs.initd = false ∧ ReleasedPins s.pins))

/-! ### The busy handshake -/

/-- A poll that found the controller not busy. -/
def clearPoll : Event → Bool
  | .poll v => !busyFlag v
  | .wr _ _ => false
  | .rd _ _ => false

/-- Every WR and RD of the trace follows a clear poll immediately; `c` says whether one stands just before (R57, R125). -/
def handshakeFrom : Bool → List Event → Bool
  | _, [] => true
  | _, .poll v :: es => handshakeFrom (!busyFlag v) es
  | c, .wr _ _ :: es => c && handshakeFrom false es
  | c, .rd _ _ :: es => c && handshakeFrom false es

/-- The trace ends with a clear poll. -/
def endsClear (tr : List Event) : Bool :=
  match tr.getLast? with
  | some ev => clearPoll ev
  | none => false

/-- In the rest of a sequence, every WR and RD comes after a busy check that let it through; `c` says whether the
trace ends with one now. -/
def guarded : Bool → List MicroOp → Bool
  | _, [] => true
  | c, op :: ops =>
    match op with
    | .latch _ => c && guarded false ops
    | .rd _ => c && guarded false ops
    | .pollTest => guarded true ops
    | .pollOnce => guarded false ops
    | .ctrlOe _ | .rs _ | .rw _ | .e _ | .dbOe _ | .load _ | .loadTarget | .driveLo | .driveHi | .driveHiLow
    | .latchHigh | .answer | .answerHigh | .answerLow | .sampleLo | .sampleHi | .sampleHiAsLo | .pollInit
    | .commit => guarded c ops

/-- The handshake invariant (R57, R125). -/
abbrev HandshakeKept (s : State) : Prop :=
  handshakeFrom false s.trace = true ∧ guarded (endsClear s.trace) s.seq = true

/-! ### Completion and memory -/

/-- The address counter moves from the implemented cell `a` to `b` (R64). -/
abbrev AcMoved (n : Flag) (up : Bool) (a b : BitVec 7) : Prop :=
  b.toNat =
    if n = 1 then
      if up then if a = 0x27 then 0x40 else if a = 0x67 then 0x00 else a.toNat + 1
      else if a = 0x40 then 0x27 else if a = 0x00 then 0x67 else a.toNat - 1
    else if up then if a = 0x4F then 0x00 else a.toNat + 1
    else if a = 0x00 then 0x4F else a.toNat - 1

/-- The commit stands only at the end of what remains of a sequence (R31). -/
def commitAtEnd : List MicroOp → Bool
  | [] => true
  | op :: ops => (op != .commit || ops.isEmpty) && commitAtEnd ops

/-- The poll counter's invariant (R37): 0 where it does not exist. -/
abbrev PollCountKept (s : State) : Prop := s.params.busyTimeout = none → s.pollcnt = 0

/-- DDRAM is in its canonical form. -/
abbrev DdramCanonical (s : State) : Prop := Memory.wf s.lcd.ddram

end Sys2Proof.Machine
end

