-- ==== Sys2Proof/Certificates/Slice0/Obligations.lean ====
section
/-! DEFINITION. The statements for the provers, each from the spec's numbered rules. -/

open Sys2Proof Sys2Proof.Machine

/-! ### Encoding -/

/-- R94, R96, R97: decoding the encoding of a well-formed instruction gives it back, with every operand. -/
def Obligations.DecodeOfEncodeIsIdentity : Prop :=
  ∀ i : Instr, WellFormed i → decode (encode i) = .ok i

/-- R94: "At most one row of the map matches any word": a legal request word is the encoding of the one
well-formed request it decodes to. -/
def Obligations.LegalRequestWordHasOneMeaning : Prop :=
  ∀ (w : Word16) (i : Instr), decode (.request w) = .ok i →
    WellFormed i ∧ i.isRequest = true ∧ encode i = .request w

/-- R95: a host write is ILLEGAL exactly when its upper half is not 0, its OPC is 0x0, 0xE or 0xF, or a
must-be-zero field of R93 is not 0. -/
def Obligations.IllegalExactlyAsRuled : Prop :=
  ∀ (w : Word32),
    let u := w.extractLsb' 0 16
    let opc := (opcOf u).toNat
    ((∃ i, decodeWrite w = .ok i) ↔
      w.extractLsb' 16 16 = 0 ∧ 1 ≤ opc ∧ opc ≤ 0xD ∧ rsvOf u = 0 ∧
        (opc ∉ [2, 3, 7, 8, 9, 0xB, 0xD] → aOf u = 0) ∧
        (opc ≠ 9 → bOf u = 0) ∧
        (opc ∉ [2, 0xA, 0xC, 0xD] → argOf u = 0))

/-- R65: the command a byte is, is named by its highest set bit; only 0x00 is no command. -/
def Obligations.CommandByteNamedByHighestBit : Prop :=
  ∀ c : Byte,
    (decode (.command c) = .error .noCommand ↔ c = 0x00) ∧
    (c = 0x01 ↔ decode (.command c) = .ok .cmdClear) ∧
    ((c = 0x02 ∨ c = 0x03) ↔ decode (.command c) = .ok .cmdHome) ∧
    (0x04 ≤ c.toNat ∧ c.toNat ≤ 0x07 ↔ ∃ i s, decode (.command c) = .ok (.cmdEntry i s)) ∧
    (0x08 ≤ c.toNat ∧ c.toNat ≤ 0x0F ↔ ∃ d k b, decode (.command c) = .ok (.cmdDisplay d k b)) ∧
    (0x10 ≤ c.toNat ∧ c.toNat ≤ 0x1F ↔ ∃ a b, decode (.command c) = .ok (.cmdShift a b)) ∧
    (0x20 ≤ c.toNat ∧ c.toNat ≤ 0x3F ↔ ∃ d n f, decode (.command c) = .ok (.cmdFunctionSet d n f)) ∧
    (0x40 ≤ c.toNat ∧ c.toNat ≤ 0x7F ↔ ∃ a, decode (.command c) = .ok (.cmdSetCgram a)) ∧
    (0x80 ≤ c.toNat ↔ ∃ a, decode (.command c) = .ok (.cmdSetDdram a))

/-- R92, R94, R97: for every row of the opcode table, the word with its operands decodes to the instruction, each
operand read from the bits the spec gives it; the bits R97 marks x make no difference. -/
def Obligations.WordsOfTheSpecDecode : Prop :=
  (decode (.request 0x1000) = .ok .init ∧ decode (.request 0x4000) = .ok .busy ∧
    decode (.request 0x5000) = .ok .clear ∧ decode (.request 0x6000) = .ok .home ∧
    decode (.request 0xB000) = .ok (.line 1) ∧ decode (.request 0xB100) = .ok (.line 2)) ∧
  (∀ b : Byte,
    decode (.request (BitVec.ofNat 16 (0x2000 + b.toNat))) = .ok (.write .C b) ∧
    decode (.request (BitVec.ofNat 16 (0x2100 + b.toNat))) = .ok (.write .D b) ∧
    decode (.request (BitVec.ofNat 16 (0xA000 + b.toNat))) = .ok (.setaddr b) ∧
    decode (.request (BitVec.ofNat 16 (0xC000 + b.toNat))) = .ok (.feed b) ∧
    ∀ l : Flag, decode (.request (BitVec.ofNat 16 (0xD000 + 0x100 * l.toNat + b.toNat))) = .ok (.ldcur l b)) ∧
  (decode (.request 0x3000) = .ok (.read .C) ∧ decode (.request 0x3100) = .ok (.read .D)) ∧
  (∀ a b : Flag,
    decode (.request (BitVec.ofNat 16 (0x7000 + 0x100 * a.toNat))) = .ok (.entry a) ∧
    decode (.request (BitVec.ofNat 16 (0x8000 + 0x100 * a.toNat))) = .ok (.display a) ∧
    decode (.request (BitVec.ofNat 16 (0x9000 + 0x200 * b.toNat + 0x100 * a.toNat))) = .ok (.configure a b)) ∧
  (decode (.command 0x01) = .ok .cmdClear ∧ decode (.command 0x02) = .ok .cmdHome ∧
    decode (.command 0x03) = .ok .cmdHome) ∧
  (∀ (a b c : Flag) (x : BitVec 2),
    decode (.command (BitVec.ofNat 8 (0x04 + 2 * a.toNat + b.toNat))) = .ok (.cmdEntry a b) ∧
    decode (.command (BitVec.ofNat 8 (0x08 + 4 * a.toNat + 2 * b.toNat + c.toNat))) = .ok (.cmdDisplay a b c) ∧
    decode (.command (BitVec.ofNat 8 (0x10 + 8 * a.toNat + 4 * b.toNat + x.toNat))) = .ok (.cmdShift a b) ∧
    decode (.command (BitVec.ofNat 8 (0x20 + 16 * a.toNat + 8 * b.toNat + 4 * c.toNat + x.toNat))) =
      .ok (.cmdFunctionSet a b c)) ∧
  (∀ a : BitVec 6, decode (.command (BitVec.ofNat 8 (0x40 + a.toNat))) = .ok (.cmdSetCgram a)) ∧
  ∀ a : BitVec 7, decode (.command (BitVec.ofNat 8 (0x80 + a.toNat))) = .ok (.cmdSetDdram a)

/-- R53: `split` takes the low and the high half, `join` is `{hi, lo}`, and the two are inverse both ways. -/
def Obligations.SplitAndJoinAreInverse : Prop :=
  (∀ b : Byte, (split b).1.toNat = b.toNat % 16 ∧ (split b).2.toNat = b.toNat / 16 ∧
    join (split b).1 (split b).2 = b) ∧
  ∀ lo hi : Nibble, (join lo hi).toNat = 16 * hi.toNat + lo.toNat ∧ split (join lo hi) = (lo, hi)

/-! ### A step and the instruction it runs -/

/-- R24, R120: on the host's turn, a legal word written to REQ of the ready block is executed; and on its own turn
the controller, its reference model not refused, executes the command byte it has latched (turns: log 6). -/
def Obligations.StepRunsTheDecodedInstruction : Prop :=
  ∀ (s : State) (i : Instr),
    (∀ w rest, nextTurn s = .host → s.seq = [] → s.hostQ = .write 0 .word w :: rest → decodeWrite w = .ok i →
      step s = exec i { s with hostQ := rest, turns := s.turns.tail }) ∧
    (∀ b, nextTurn s = .controller → s.lcd.offModel = false →
      s.lcd.pending = some { rs := .C, payload := b } → decode (.command b) = .ok i →
      step s = exec i { s with lcd := { s.lcd with pending := none }, turns := s.turns.tail })

/-- R65, R77, R120: what a poll that finds the controller ready has done to it, its own turn does too, and for a command
byte that is what exec does: the turn leaves the controller with its frame finished, a clear busy check of the reference
controller does the same, and executing a command frame is exec of the byte's instruction (turns: log 6; when a frame
takes effect: log 16). -/
def Obligations.FinishingAFrameExecutesItsInstruction : Prop :=
  ∀ s : State,
    (nextTurn s = .controller → step s = .next { s with turns := s.turns.tail, lcd := finishPending s.lcd }) ∧
    (s.params.controller = .reference → busyFlag (s.drawAt 0) = false → s.lcdAnswered .C = finishPending s.lcd) ∧
    (∀ f, s.lcd.pending = some f → finishPending s.lcd = executeFrame f { s.lcd with pending := none }) ∧
    ∀ b i, s.lcd.offModel = false → decode (.command b) = .ok i →
      exec i s = .next { s with lcd := executeFrame { rs := .C, payload := b } s.lcd }

/-- The instruction `withFetchWord` places is the one the next step runs, from every state (log 6: how a program
comes to run is the model's own arrangement). -/
def Obligations.PlacedInstructionRunsNext : Prop :=
  ∀ (s : State) (nbits w : Nat) (i : Instr), decodeTableWord nbits w = some i →
    ∃ u : State, step (s.withFetchWord nbits w) = exec i u ∧ u.regs = s.regs ∧ u.pins = s.pins ∧
      u.trace = s.trace ∧ u.params = s.params ∧ u.turns = s.turns ∧ u.hostQ = s.hostQ ∧
      u.lcd.ddram = s.lcd.ddram ∧ u.lcd.ac = s.lcd.ac

/-- R24: a host write to REQ while READY = 0 is held: the host's turn leaves it to come, and nothing changes. -/
def Obligations.WriteToReqIsHeldWhileBusy : Prop :=
  ∀ (s : State) (w : Word32) (rest : List HostEvent), nextTurn s = .host → s.seq ≠ [] →
    s.hostQ = .write 0 .word w :: rest → step s = .next { s with turns := s.turns.tail }

/-- R211: an ILLEGAL word changes no register except `STATUS.ERR <- 1`, no pin and no trace; READY returns to 1.
REQL has taken the word (R120). -/
def Obligations.IllegalWordOnlyReports : Prop :=
  ∀ (s : State) (w : Word32) (rest : List HostEvent) (e : Reject), nextTurn s = .host → s.seq = [] →
    s.hostQ = .write 0 .word w :: rest → decodeWrite w = .error e →
    step s = .next { s with
      hostQ := rest
      turns := s.turns.tail
      reql := w.extractLsb' 0 16
      regs := { s.regs with err := .illegal } }

/-- R214: a request other than INIT while INITD = 0 changes nothing but `STATUS.ERR <- 2` (and REQL, R120). -/
def Obligations.RequestBeforeInitOnlyReports : Prop :=
  ∀ (s : State) (i : Instr), s.seq = [] → s.regs.initd = false → i.isRequest = true → i ≠ .init →
    exec i s = .next { s with reql := requestBits i, regs := { s.regs with err := .notInit } }

/-- R25 to R29: an aligned word read returns the register's word, or 0 from REQ and the reserved offsets, and
changes nothing else, whether or not a request is running. -/
def Obligations.HostReadReturnsTheRegister : Prop :=
  ∀ (s : State) (offset : Byte) (rest : List HostEvent), nextTurn s = .host →
    s.hostQ = .read offset .word :: rest → offset.toNat % 4 = 0 →
    ∃ v : Word32, step s = .next { s with hostQ := rest, turns := s.turns.tail, hostData := v } ∧
      v.toNat =
        if offset = 0x04 then
          (if s.seq = [] then 1 else 0) + (if s.regs.initd then 2 else 0) + 16 * (errBits s.regs.err).toNat +
            (if s.pins.dbOe then 256 else 0)
        else if offset = 0x08 then s.regs.resp.toNat
        else if offset = 0x0C then
          s.regs.cfg.lines.toNat + 2 * s.regs.cfg.font.toNat + (if s.params.busMode = .nibble4 then 4 else 0)
        else if offset = 0x10 then s.regs.cur.col.toNat + 256 * s.regs.cur.line.toNat
        else 0

/-- R29, R30: an aligned word write to any offset but REQ is ignored; an access that is not an aligned word is
refused. -/
def Obligations.OtherHostAccessesAreIgnoredOrRefused : Prop :=
  ∀ (s : State) (offset : Byte) (width : Width) (w : Word32) (rest : List HostEvent), nextTurn s = .host →
    (s.hostQ = .write offset .word w :: rest → offset.toNat % 4 = 0 → offset ≠ 0 →
      step s = .next { s with hostQ := rest, turns := s.turns.tail }) ∧
    (width ≠ .word ∨ offset.toNat % 4 ≠ 0 →
      (s.hostQ = .write offset width w :: rest ∨ s.hostQ = .read offset width :: rest) →
      step s = .refused .hostAccessNotAlignedWord)

/-! ### Bus Transport -/

/-- R130, R124, R125: WRITE sends its one frame after the busy wait and changes no register but ERR. The model's choice
for the controller (logs 3, 16, 17): the reference controller holds the frame, and one whose answers are draws is not
followed. -/
def Obligations.WriteSendsOneFrame : Prop :=
  ∀ (s : State) (r : Rs) (b : Byte), s.Accepting → s.Quiet 1 →
    ∃ t v, exec (.write r b) s = .next t ∧ s.ClearAnswer 0 v ∧
      Finished (.write r b) [.poll v, .wr r b] s t ∧ t.regs = { s.regs with err := .ok } ∧
      Delivered [] { rs := r, payload := b } s t

/-- R131, R123: READ reads after the busy wait and RESP takes the byte, bit 7 unmasked. The model's choice for the
controller (logs 3, 16): the byte is the next draw, of a controller that is not followed, or what the reference
controller answers once it has finished its frame; from C that is `{0, AC}` (R76). -/
def Obligations.ReadReturnsTheAnswer : Prop :=
  ∀ (s : State) (r : Rs), s.Accepting → s.Quiet 1 →
    ∃ t v x, exec (.read r) s = .next t ∧ s.ClearAnswer 0 v ∧
      Finished (.read r) [.poll v, .rd r x] s t ∧ t.regs = { s.regs with resp := x, err := .ok } ∧
      (s.params.controller = .draws → x = s.drawAt 1 ∧ t.lcd = s.lcd) ∧
      (s.params.controller = .reference → (x, t.lcd) = referenceAnswer r (s.drawAt 1) (finishPending s.lcd)) ∧
      (s.params.controller = .reference → r = .C → (finishPending s.lcd).offModel = false →
        x.toNat = (finishPending s.lcd).ac.toNat ∧ t.lcd = finishPending s.lcd)

/-- R132: BUSY makes exactly one busy check, whatever it answers and whatever BUSY_TIMEOUT is, and RESP is its
bit 7. The model's choice for the controller (logs 3, 16): the byte is the next draw, of a controller that is not
followed, or the reference controller's, where the draw's bit 7 says whether a frame it holds stays unfinished; that is
`{BF, AC}`, with BF = 1 while a frame is held (R76, R77). -/
def Obligations.BusyReadsOnce : Prop :=
  ∀ s : State, s.Accepting →
    ∃ t v, exec .busy s = .next t ∧ Finished .busy [.poll v] s t ∧
      t.regs = { s.regs with resp := if v.getLsbD 7 then 0x01 else 0x00, err := .ok } ∧
      (s.params.controller = .draws → v = s.drawAt 0 ∧ t.lcd = s.lcd) ∧
      (s.params.controller = .reference → (v, t.lcd) = referenceAnswer .C (s.drawAt 0) s.lcd) ∧
      (s.params.controller = .reference → s.lcd.offModel = false → AnswersStatus (s.drawAt 0) s.lcd v t.lcd)

/-- R76, R77: every read of C of the reference controller, so every busy check, answers `{BF, AC}`: BF = 1 and nothing
changed while it holds a frame and the draw keeps it busy, else BF = 0 once it has finished its frame (log 16). -/
def Obligations.ReferencePollAnswersBusyAndAddress : Prop :=
  ∀ s : State, s.params.controller = .reference → s.lcd.offModel = false →
    AnswersStatus (s.drawAt 0) s.lcd (s.answer .C) (s.lcdAnswered .C)

/-- R126, R127, R129: after a WRITE the pins are idle in output mode, RS selects the register written, and the data
latches hold the byte: both halves in SPLIT8; in NIBBLE4 the low half, sent last, on DB_HI, and DB_LO_OUT as before. -/
def Obligations.WritePutsTheByteOnThePins : Prop :=
  ∀ (s : State) (r : Rs) (b : Byte), s.Accepting → s.Quiet 1 →
    ∃ t, exec (.write r b) s = .next t ∧ t.pins.e = false ∧ t.pins.rw = false ∧ t.pins.dbOe = true ∧
      t.pins.ctrlOe = s.pins.ctrlOe ∧ (t.pins.rs = true ↔ r = .D) ∧
      (s.params.busMode = .split8 → t.pins.dbHiOut.toNat * 16 + t.pins.dbLoOut.toNat = b.toNat) ∧
      (s.params.busMode = .nibble4 → t.pins.dbHiOut.toNat = b.toNat % 16 ∧ t.pins.dbLoOut = s.pins.dbLoOut)

/-! ### Command/Data Protocol -/

/-- R151, R152: CLEAR and HOME send 0x01 and 0x02 and reset CUR; CFG, RESP and INITD stay. The controller's side is the
model's choice (logs 3, 16). -/
def Obligations.ClearAndHomeResetTheCursor : Prop :=
  ∀ (s : State) (i : Instr) (c : Byte), s.Accepting → s.Quiet 1 →
    (i = .clear ∧ c = 0x01 ∨ i = .home ∧ c = 0x02) →
    ∃ t v, exec i s = .next t ∧ s.ClearAnswer 0 v ∧ Finished i [.poll v, .wr .C c] s t ∧
      t.regs = { s.regs with cur := { line := 0, col := 0 }, err := .ok } ∧ Delivered [] { rs := .C, payload := c } s t

/-- R99, R101, R103, R153, R154, R156: ENTRY, DISPLAY and SETADDR send their one command byte and change no register
but ERR; DISP_CB is 0 by default. The controller's side is the model's choice (logs 3, 16). -/
def Obligations.EntryDisplaySetaddrSendOneCommand : Prop :=
  (∀ m, (Params.forMode m).dispCb = 0) ∧ ∀ (s : State) (i : Instr) (c : Byte), s.Accepting → s.Quiet 1 →
    ((∃ inc : Flag, i = .entry inc ∧ c = if inc = 1 then 0x06 else 0x04) ∨
      (∃ on : Flag, i = .display on ∧ c = (if on = 1 then 0x0C else 0x08) ||| s.params.dispCb.setWidth 8) ∨
      (∃ a : Byte, i = .setaddr a ∧ c.toNat = 0x80 + a.toNat % 0x80)) →
    ∃ t v, exec i s = .next t ∧ s.ClearAnswer 0 v ∧ Finished i [.poll v, .wr .C c] s t ∧
      t.regs = { s.regs with err := .ok } ∧ Delivered [] { rs := .C, payload := c } s t

/-- R155, R41, R100: CONFIGURE sends one function-set byte that carries both fields, and CFG takes them. The
controller's side is the model's choice (logs 3, 16). -/
def Obligations.ConfigureSetsBothFields : Prop :=
  ∀ (s : State) (l f : Flag), s.Accepting → s.Quiet 1 →
    ∃ t v c, exec (.configure l f) s = .next t ∧ s.ClearAnswer 0 v ∧
      BitVec.toNat c = functionSetValue s.params.busMode l f ∧
      Finished (.configure l f) [.poll v, .wr .C c] s t ∧
      t.regs = { s.regs with cfg := { lines := l, font := f }, err := .ok } ∧ Delivered [] { rs := .C, payload := c } s t

/-- R157, R51: LINE 1 jumps to 0x00 and LINE 2 to 0x40, and CUR is the start of that line. The controller's side is the
model's choice (logs 3, 16). -/
def Obligations.LineJumpsToItsStart : Prop :=
  ∀ (s : State) (n : Nat) (c : Byte) (l : Flag), s.Accepting → s.Quiet 1 →
    (n = 1 ∧ c = 0x80 ∧ l = 0 ∨ n = 2 ∧ c = 0xC0 ∧ l = 1) →
    ∃ t v, exec (.line n) s = .next t ∧ s.ClearAnswer 0 v ∧ Finished (.line n) [.poll v, .wr .C c] s t ∧
      t.regs = { s.regs with cur := { line := l, col := 0 }, err := .ok } ∧ Delivered [] { rs := .C, payload := c } s t

/-! ### Text Stream State Machine -/

/-- R174, R172: a backspace makes its four writes at any column, and COL goes down by one, saturating at 0. The
controller's side, three frames executed and the last one held, is the model's choice (logs 3, 16). -/
def Obligations.BackspaceErasesOneCell : Prop :=
  ∀ s : State, s.Accepting → s.Quiet 4 →
    ∃ t a b c d, exec (.feed 0x7F) s = .next t ∧ s.ClearAnswer 0 a ∧ s.ClearAnswer 1 b ∧ s.ClearAnswer 2 c ∧
      s.ClearAnswer 3 d ∧
      Finished (.feed 0x7F)
        [.poll a, .wr .C 0x10, .poll b, .wr .C 0x06, .poll c, .wr .D 0x20, .poll d, .wr .C 0x10] s t ∧
      (∃ col : Byte, col.toNat = s.regs.cur.col.toNat - 1 ∧
        t.regs = { s.regs with cur := { line := s.regs.cur.line, col := col }, resp := col, err := .ok }) ∧
      Delivered [⟨.C, 0x10⟩, ⟨.C, 0x06⟩, ⟨.D, 0x20⟩] ⟨.C, 0x10⟩ s t

/-- R175, C1: a carriage return re-applies the configuration, reads the controller's address, and jumps to the start
of line 1 when it is 0x40 or more, else of line 2; CFG, CUR and RESP follow. The controller's side, the byte the
reference controller answers among it, is the model's choice (logs 3, 16); that byte is `{0, AC}`, the address as the
function set leaves it (R71, R76). -/
def Obligations.CarriageReturnAlternatesLines : Prop :=
  ∀ s : State, s.Accepting → s.Quiet 2 → busyFlag (s.drawAt 3) = false →
    ∃ t a b x d fs jump cfg line, exec (.feed 0x0D) s = .next t ∧ s.ClearAnswer 0 a ∧ s.ClearAnswer 1 b ∧
      s.ClearAnswer 3 d ∧
      cfg = (if s.params.crCfg = .fixed2L5x11 then { lines := 1, font := 1 } else s.regs.cfg) ∧
      BitVec.toNat fs = functionSetValue s.params.busMode cfg.lines cfg.font ∧
      (if 0x40 ≤ BitVec.toNat x % 0x80 then jump = 0x80 ∧ line = 0 else jump = 0xC0 ∧ line = 1) ∧
      Finished (.feed 0x0D) [.poll a, .wr .C fs, .poll b, .rd .C x, .poll d, .wr .C jump] s t ∧
      t.regs = { s.regs with cfg := cfg, cur := { line := line, col := 0 }, resp := 0x00, err := .ok } ∧
      Delivered [⟨.C, fs⟩] ⟨.C, jump⟩ s t ∧
      (s.params.controller = .draws → x = s.drawAt 2) ∧
      (s.params.controller = .reference →
        x = (referenceAnswer .C (s.drawAt 2) (executeFrame ⟨.C, fs⟩ (finishPending s.lcd))).1) ∧
      (s.params.controller = .reference → (finishPending s.lcd).offModel = false →
        BitVec.toNat x = (finishPending s.lcd).ac.toNat)

/-- R176: a line feed makes no bus transfer; RESP is the unchanged COL. -/
def Obligations.LineFeedDoesNothingOnTheBus : Prop :=
  ∀ s : State, s.Accepting →
    exec (.feed 0x0A) s = .next { s with reql := 0xC00A, regs := { s.regs with resp := s.regs.cur.col, err := .ok } }

/-- R177, R172, R105: every other byte is a glyph: entry mode auto-increment, the data write, and COL + 1 modulo 256,
or COL as it was with POSTINC_BUG. The controller's side is the model's choice (logs 3, 16). -/
def Obligations.PrintableByteAdvancesTheColumn : Prop :=
  ∀ (s : State) (c : Byte), s.Accepting → s.Quiet 2 → c ≠ 0x7F → c ≠ 0x0D → c ≠ 0x0A →
    ∃ t a b, exec (.feed c) s = .next t ∧ s.ClearAnswer 0 a ∧ s.ClearAnswer 1 b ∧
      Finished (.feed c) [.poll a, .wr .C 0x06, .poll b, .wr .D c] s t ∧
      (∃ col : Byte,
        (if s.params.postincBug then col = s.regs.cur.col else col.toNat = (s.regs.cur.col.toNat + 1) % 256) ∧
        t.regs = { s.regs with cur := { line := s.regs.cur.line, col := col }, resp := col, err := .ok }) ∧
      Delivered [⟨.C, 0x06⟩] ⟨.D, c⟩ s t

/-! ### Block control -/

/-- R200: INIT drives the pins, sends each byte of INIT_CMDS in order, each after its busy wait, and then sets CFG,
CUR and INITD; RESP stays. It does so whether or not INITD was 1. The bring-up flags (log 10), that INIT_CMDS
may be any bytes (log 22) and the controller's side (logs 3, 16, 17) are the model's choice. -/
def Obligations.InitSendsItsCommands : Prop :=
  ∀ s : State, s.seq = [] → s.quantum = none → s.boardUp = true → s.lcdUp = true →
    s.Quiet s.params.initCmds.length →
    ∃ (t : State) (vs : List Byte), exec .init s = .next t ∧ vs.length = s.params.initCmds.length ∧
      (∀ k v, vs[k]? = some v → s.ClearAnswer k v) ∧
      Finished .init ((vs.zip s.params.initCmds).flatMap fun p => [.poll p.1, .wr .C p.2]) s t ∧
      t.regs = { initd := true, err := .ok, resp := s.regs.resp, cfg := ⟨0, 0⟩, cur := ⟨0, 0⟩ } ∧
      IdlePins t.pins ∧ (s.params.controller = .draws → t.lcd = s.lcd) ∧
      (s.params.controller = .reference →
        finishPending t.lcd =
          s.params.initCmds.foldl (fun c k => executeFrame ⟨.C, k⟩ c) (finishPending s.lcd))

/-- R202: LDCUR loads CUR with no bus transfer; everything else stays but REQL and ERR. -/
def Obligations.LdcurLoadsTheMirror : Prop :=
  ∀ (s : State) (l : Flag) (c : Byte), s.Accepting →
    exec (.ldcur l c) s = .next { s with
      reql := requestBits (.ldcur l c)
      regs := { s.regs with cur := { line := l, col := c }, err := .ok } }

/-- R242, I13: an INIT before board bring-up or controller power-up is refused. -/
def Obligations.LaunchBeforeBringUpIsRefused : Prop :=
  ∀ s : State, (s.boardUp = false ∨ s.lcdUp = false) → exec .init s = .refused .launchBeforeBringUp

/-! ### The busy wait -/

/-- R125, R217: while the controller answers busy and the bound is not reached, a block turn makes one busy check,
commits nothing and goes back to the start of the same wait (turns: logs 6, 7; what the check does to the controller:
logs 3, 16). -/
def Obligations.BusyAnswerRepeatsTheWait : Prop :=
  ∀ (s : State) (rest : List MicroOp), nextTurn s = .block → s.quantum = none →
    s.seq = pollRoundOps s.params.busMode ++ rest → busyFlag (s.answer .C) = true →
    (∀ n, s.params.busyTimeout = some n → s.pollcnt + 1 ≠ n) →
    ∃ t, step s = .next t ∧ t.seq = s.seq ∧ t.regs = s.regs ∧ t.reql = s.reql ∧ t.lcd = s.lcdAnswered .C ∧
      t.trace = s.trace ++ [.poll (s.answer .C)] ∧
      t.pollcnt = (if s.params.busyTimeout = none then s.pollcnt else s.pollcnt + 1)

/-- R215, R212: the N-th busy answer of one wait ends the request with BUS_TIMEOUT: no further event, no register
but ERR, STEP idle, and the pins as a finished read leaves them. -/
def Obligations.BusTimeoutAbandonsTheRequest : Prop :=
  ∀ (s : State) (rest : List MicroOp) (n : Nat), nextTurn s = .block →
    s.quantum = none → s.seq = pollRoundOps s.params.busMode ++ rest → busyFlag (s.answer .C) = true →
    s.params.busyTimeout = some n → s.pollcnt + 1 = n →
    ∃ t, step s = .next t ∧ t.seq = [] ∧ t.regs = { s.regs with err := .busTimeout } ∧
      t.trace = s.trace ++ [.poll (s.answer .C)] ∧ t.pins.e = false ∧ t.pins.rw = false ∧ t.pins.dbOe = true

/-- R215, R212, R125: with BUSY_TIMEOUT = 1 the first busy answer at a PollBusy check ends the request in the turn that
accepts it: no register but ERR, no further event, and the transfers completed before it stand. It is so for every
request and every one of its checks where the answers are draws, and for its first check with either controller (turns:
log 7). -/
def Obligations.FirstBusyAnswerTimesOutAtBoundOne : Prop :=
  ∀ (s : State) (i : Instr), i.isRequest = true → (s.regs.initd = true ∨ i = .init) →
    (i = .init → s.boardUp = true ∧ s.lcdUp = true) → s.seq = [] → s.quantum = none →
    s.params.busyTimeout = some 1 →
    (∀ k ∈ pollDraws s.params i, s.params.controller = .draws →
      (∀ j ∈ pollDraws s.params i, j < k → busyFlag (s.drawAt j) = false) → busyFlag (s.drawAt k) = true →
      ∃ t v evs, exec i s = .next t ∧ TimedOut i (evs ++ [.poll (s.drawAt k)]) s t ∧
        (∀ x, .poll x ∈ evs → busyFlag x = false) ∧ t.reads = s.reads + k + 1 ∧
        evs.filter isTransfer <+: requestTransfers s.params s.regs.cfg v i) ∧
    (pollDraws s.params i ≠ [] → busyFlag (s.answer .C) = true →
      ∃ t, exec i s = .next t ∧ TimedOut i [.poll (s.answer .C)] s t)

/-- R125: a clear answer ends the wait: the block turn records the poll and goes on at once with the rest of the
sequence, the registers, the loaded byte and the byte read as they were (turns: logs 6, 7; what the check does to the
controller: logs 3, 16). -/
def Obligations.ClearAnswerGoesOnWithTheRequest : Prop :=
  ∀ (s : State) (rest : List MicroOp), nextTurn s = .block → s.quantum = none →
    s.seq = pollRoundOps s.params.busMode ++ rest → busyFlag (s.answer .C) = false →
    ∃ u, step s = .next (runSeq none rest u) ∧ u.trace = s.trace ++ [.poll (s.answer .C)] ∧ u.regs = s.regs ∧
      u.reql = s.reql ∧ u.tx = s.tx ∧ u.acc = s.acc ∧ u.params = s.params ∧ u.lcd = s.lcdAnswered .C ∧ u.pins.e = false ∧ u.pins.rw = false ∧
      u.pins.dbOe = true ∧ ∀ j, u.drawAt j = s.drawAt (j + 1)

/-- R250, R125, R57: a CLEAR whose wait meets any finite number of busy answers completes as soon as one is clear:
with `n` busy draws and then a clear one, the request and `n` more steps end it, its trace being the `n + 1` polls and
its one write. -/
def Obligations.ClearCompletesAfterFinitelyManyBusyAnswers : Prop :=
  ∀ (s : State) (n : Nat), s.Accepting → s.params.controller = .draws → s.params.busyTimeout = none → s.turns = [] →
    (∀ k < n, busyFlag (s.drawAt k) = true) → busyFlag (s.drawAt n) = false →
    ∃ u t, exec .clear s = .next u ∧ Sys2Proof.core.run n u = .next t ∧ t.seq = [] ∧
      t.regs = { s.regs with cur := { line := 0, col := 0 }, err := .ok } ∧
      t.trace = s.trace ++ ((List.range (n + 1)).map fun k => .poll (s.drawAt k)) ++ [.wr .C 0x01]

/-- R250, R125, R106: every request completes once its busy answers stop. With `m` answers of any kind and then enough
clear ones, it is idle after at most `m` more turns of the default order, with its own commit, no error, and its own
transfers in their order among the polls (default turns: log 6). -/
def Obligations.EveryRequestCompletesAfterBusyAnswers : Prop :=
  ∀ (s : State) (i : Instr) (m : Nat), i.isRequest = true → WellFormed i → (s.regs.initd = true ∨ i = .init) →
    (i = .init → s.boardUp = true ∧ s.lcdUp = true) → s.seq = [] → s.quantum = none → s.turns = [] →
    s.params.controller = .draws → s.params.busyTimeout = none →
    (i ≠ .busy → ∀ j < 4 + s.params.initCmds.length, busyFlag (s.drawAt (m + j)) = false) →
    ∃ u k t v evs, exec i s = .next u ∧ k ≤ m ∧ Sys2Proof.core.run k u = .next t ∧ t.seq = [] ∧
      t.reql = requestBits i ∧ t.regs = { commitOf s.params v i s.regs with err := .ok } ∧
      t.trace = s.trace ++ evs ∧ evs.filter isTransfer = requestTransfers s.params s.regs.cfg v i ∧
      (i = .busy → evs = [.poll v])

/-- R215, R217, R244: with BUSY_TIMEOUT = n no instruction hangs: whatever the controller answers, the block is idle
again after at most n turns for each of its polls, of which no request but INIT has more than four. -/
def Obligations.BusyTimeoutBoundsEveryRequest : Prop :=
  ∀ (s u : State) (i : Instr) (n : Nat), s.params.controller = .draws → s.params.busyTimeout = some n → 1 ≤ n →
    s.seq = [] → s.quantum = none → s.turns = [] → exec i s = .next u →
    ∃ k t, k ≤ n * (4 + s.params.initCmds.length) ∧ Sys2Proof.core.run k u = .next t ∧ t.seq = []

/-- R121, R253: a bound on a turn only cuts it: the bounded turn is the unbounded one, or going on from where it
stopped gives what the unbounded one gives (turns: log 7). -/
def Obligations.QuantumOnlyCutsTheTurn : Prop :=
  ∀ (q : Option Nat) (ops : List MicroOp) (s : State),
    runSeq q ops s = runSeq none ops s ∨
      ((runSeq q ops s).seq ≠ [] ∧ runSeq none (runSeq q ops s).seq (runSeq q ops s) = runSeq none ops s)

/-! ### The controller's commands -/

/-- R66, R67: clear display blanks every implemented cell and sets AC, ID, RDOK and the window; return home leaves
DDRAM. -/
def Obligations.ControllerClearsAndHomes : Prop :=
  ∀ s : State,
    (∃ t, exec .cmdClear s = .next t ∧ OnlyController s t ∧
      t.lcd = { s.lcd with ddram := t.lcd.ddram, ac := 0, incr := 1, window := 0, rdok := false } ∧
      ∀ a, Memory.read t.lcd.ddram a = if Memory.implemented s.lcd.n a then 0x20 else Memory.read s.lcd.ddram a) ∧
    (∃ t, exec .cmdHome s = .next t ∧ OnlyController s t ∧
      t.lcd = { s.lcd with ac := 0, window := 0, rdok := false })

/-- R68, R69, R71, R73: entry mode, display control, function set and set DDRAM address each write their fields of
the controller and nothing else. -/
def Obligations.ControllerSetsItsModes : Prop :=
  ∀ (s : State) (x y z : Flag) (a : BitVec 7),
    (∃ t, exec (.cmdEntry x y) s = .next t ∧ OnlyController s t ∧ t.lcd = { s.lcd with incr := x, shift := y }) ∧
    (∃ t, exec (.cmdDisplay x y z) s = .next t ∧ OnlyController s t ∧
      t.lcd = { s.lcd with dispOn := x, cursorOn := y, blinkOn := z }) ∧
    (∃ t, exec (.cmdFunctionSet x y z) s = .next t ∧ OnlyController s t ∧
      t.lcd = { s.lcd with dl := x, n := y, f := z }) ∧
    (∃ t, exec (.cmdSetDdram a) s = .next t ∧ OnlyController s t ∧ t.lcd = { s.lcd with ac := a, rdok := true })

/-- R70, R64: a cursor move steps AC through the implemented cells, wrapping at the ends of the rows, and makes a data
read valid; a display shift leaves AC and moves the window. Neither changes anything else. -/
def Obligations.CursorShiftStepsTheAddress : Prop :=
  ∀ (s : State) (sc rl : Flag), ∃ t, exec (.cmdShift sc rl) s = .next t ∧ OnlyController s t ∧
    t.lcd = { s.lcd with ac := t.lcd.ac, rdok := t.lcd.rdok, window := t.lcd.window, fresh := t.lcd.fresh } ∧
    (sc = 1 → t.lcd.ac = s.lcd.ac ∧ t.lcd.rdok = s.lcd.rdok ∧ t.lcd.window ≠ s.lcd.window) ∧
    (sc = 0 → t.lcd.rdok = true ∧ t.lcd.window = s.lcd.window) ∧
    (sc = 0 → Memory.implemented s.lcd.n s.lcd.ac.toNat = true →
      Memory.implemented s.lcd.n t.lcd.ac.toNat = true ∧ AcMoved s.lcd.n (rl == 1) s.lcd.ac t.lcd.ac)

/-- R72, I16: a set-CGRAM byte refuses the reference model; written by the block it does so when it is latched, as a frame
the controller holds (log 16); the block goes on, and from then on the controller's answers are draws (R60; log 17). -/
def Obligations.SetCgramRefusesTheReferenceModel : Prop :=
  (∀ (s : State) (a : BitVec 6), ∃ t, exec (.cmdSetCgram a) s = .next t ∧ OnlyController s t ∧
    t.lcd.offModel = true ∧ t.lcd.pending = s.lcd.pending) ∧
  (∀ (f : Frame) (c : Lcd),
    latchIn f c = { c with pending := some f, offModel := (latchIn f c).offModel } ∧
    ((latchIn f c).offModel = true ↔
      c.offModel = true ∨ (f.rs = .C ∧ 0x40 ≤ f.payload.toNat ∧ f.payload.toNat < 0x80))) ∧
  ∀ (s : State) (r : Rs), s.params.controller = .reference → s.lcd.offModel = true → s.answer r = s.drawAt 0

/-- R72: the refusal of the reference model lasts for the rest of the run: no step takes it back (log 17). -/
def Obligations.RefusalOfTheReferenceModelLasts : Prop :=
  ∀ s t : State, s.lcd.offModel = true → step s = .next t → t.lcd.offModel = true

/-- R74: the controller's turn with a data frame stores the byte at AC, an implemented cell, and leaves every other
byte of DDRAM; AC moves as the entry mode says, RDOK is 0, with SH = 1 the window shifts, and nothing else changes
(the controller's turn: log 6). -/
def Obligations.DataFrameStoresAtTheAddress : Prop :=
  ∀ (s : State) (b : Byte), nextTurn s = .controller → s.lcd.offModel = false → DdramCanonical s →
    s.lcd.pending = some { rs := .D, payload := b } → Memory.implemented s.lcd.n s.lcd.ac.toNat = true →
    ∃ t, step s = .next t ∧ t = { s with turns := s.turns.tail, lcd := t.lcd } ∧
      t.lcd = { s.lcd with
        pending := none, rdok := false, ddram := t.lcd.ddram, ac := t.lcd.ac, window := t.lcd.window
        fresh := t.lcd.fresh } ∧
      AcMoved s.lcd.n (s.lcd.incr == 1) s.lcd.ac t.lcd.ac ∧ (s.lcd.shift = 1 ↔ t.lcd.window ≠ s.lcd.window) ∧
      ∀ a, Memory.read t.lcd.ddram a = if a = s.lcd.ac.toNat then b else Memory.read s.lcd.ddram a

/-- R75: with the reference controller idle and AC at an implemented cell, READ D returns that cell when RDOK = 1;
whether or not it was, AC moves as the entry mode says, RDOK is 1 and nothing else of the controller changes. -/
def Obligations.ReadDataReturnsTheCell : Prop :=
  ∀ s : State, s.Accepting → s.Quiet 1 → s.params.controller = .reference → s.lcd.pending = none →
    s.lcd.offModel = false → Memory.implemented s.lcd.n s.lcd.ac.toNat = true →
    ∃ t, exec (.read .D) s = .next t ∧
      (s.lcd.rdok = true → t.regs.resp = Memory.read s.lcd.ddram s.lcd.ac.toNat) ∧
      AcMoved s.lcd.n (s.lcd.incr == 1) s.lcd.ac t.lcd.ac ∧
      t.lcd = { s.lcd with rdok := true, ac := t.lcd.ac, fresh := t.lcd.fresh }

/-! ### Frames over all instructions -/

/-- R40, R27, R26, R25: only the requests the rules name write CUR, its LINE, CFG, RESP and INITD in their own turn;
no command byte writes any of them. -/
def Obligations.OnlyTheNamedRequestsWriteEachRegister : Prop :=
  ∀ (i : Instr) (s t : State), exec i s = .next t →
    (t.regs.cur ≠ s.regs.cur → WritesCur i) ∧ (t.regs.cur.line ≠ s.regs.cur.line → WritesLine i) ∧
    (t.regs.cfg ≠ s.regs.cfg → WritesCfg i) ∧ (t.regs.resp ≠ s.regs.resp → WritesResp i) ∧
    (t.regs.initd ≠ s.regs.initd → i = .init)

/-- R40, R27, R26, R31: in every step but block reset, also one that finishes a request begun earlier, CUR, its LINE,
CFG and RESP change only when the request in REQL is one the rules name and completes with ERR = 0. -/
def Obligations.StepWritesRegistersOnlyByTheNamedRequests : Prop :=
  ∀ s t : State, commitAtEnd s.seq = true → step s = .next t → nextTurn s ≠ .blockReset →
    (t.regs.cur ≠ s.regs.cur → ∃ i, decode (.request t.reql) = .ok i ∧ WritesCur i) ∧
    (t.regs.cur.line ≠ s.regs.cur.line → ∃ i, decode (.request t.reql) = .ok i ∧ WritesLine i) ∧
    (t.regs.cfg ≠ s.regs.cfg → ∃ i, decode (.request t.reql) = .ok i ∧ WritesCfg i) ∧
    (t.regs.resp ≠ s.regs.resp → ∃ i, decode (.request t.reql) = .ok i ∧ WritesResp i) ∧
    (t.regs.cur ≠ s.regs.cur ∨ t.regs.cfg ≠ s.regs.cfg ∨ t.regs.resp ≠ s.regs.resp → t.seq = [] ∧ t.regs.err = .ok)

/-- R35, R57, R127, R129: no instruction touches the parameters, the host's side or the boot steps; the trace only
grows; only INIT changes CTRL_OE; in NIBBLE4 the low segment keeps its level; a controller whose answers are draws is
not followed by requests; and a command byte changes the controller alone, DDRAM only by CMD_CLEAR, or by CMD_SET_CGRAM,
after which nothing is known of it. The parameters and the frames of a drawn controller are the model's logs 2 and 3,
the host's queue and turns logs 6 and 7, the boot steps log 10, the level of an undriven DB_LO_IN log 24. -/
def Obligations.InstructionsLeaveTheRestUnchanged : Prop :=
  ∀ (i : Instr) (s t : State), exec i s = .next t →
    Surroundings s t ∧ s.trace <+: t.trace ∧ (t.pins.ctrlOe ≠ s.pins.ctrlOe → i = .init) ∧
    (s.params.busMode = .nibble4 → t.pins.dbLoOut = s.pins.dbLoOut ∧ t.pins.dbLoIn = s.pins.dbLoIn) ∧
    (i.isRequest = true → s.params.controller = .draws → t.lcd = s.lcd) ∧
    (i.isRequest = false → OnlyController s t ∧
      (i ≠ .cmdClear → (∀ a, i ≠ .cmdSetCgram a) → t.lcd.ddram = s.lcd.ddram))

/-! ### Invariants every step keeps -/

/-- R245, R246, R34, R36, R133: no step brings bus contention; what remains of a sequence drives, samples, turns the
drivers and ends only at the levels it needs; and between requests the pins are idle in output mode, or still released
before the first INIT. -/
def Obligations.PinsStaySafe : Prop :=
  ∀ s t : State, PinsSafe s → step s = .next t → PinsSafe t

/-- R57, R125: every step keeps the busy handshake: each WR and RD of the trace immediately follows a poll whose busy
bit is 0. -/
def Obligations.HandshakeStaysKept : Prop :=
  ∀ s t : State, HandshakeKept s → step s = .next t → HandshakeKept t

/-- R31, R22: the commit stays last; while a request has not completed, the registers keep the values from before it,
and REQL its word. -/
def Obligations.RegistersChangeOnlyAtCompletion : Prop :=
  ∀ s t : State, commitAtEnd s.seq = true → step s = .next t →
    commitAtEnd t.seq = true ∧ (t.seq ≠ [] → t.regs = s.regs ∧ (s.seq ≠ [] → t.reql = s.reql))

/-- R25, R32: INITD is set only by the completion of an INIT with ERR = 0, and cleared only by block reset. -/
def Obligations.InitdIsSetByInitAndClearedByReset : Prop :=
  ∀ s t : State, commitAtEnd s.seq = true → step s = .next t →
    (s.regs.initd = false → t.regs.initd = true →
      t.seq = [] ∧ t.regs.err = .ok ∧ decode (.request t.reql) = .ok .init) ∧
    (s.regs.initd = true → t.regs.initd = false → nextTurn s = .blockReset)

/-- R62: every step keeps DDRAM in its canonical form (the form is the model's, log 15). -/
def Obligations.DdramStaysCanonical : Prop :=
  ∀ s t : State, DdramCanonical s → step s = .next t → DdramCanonical t

/-- R37, R6: the parameters never change, and without BUSY_TIMEOUT there is no poll count. -/
def Obligations.ParametersStayAndPollCountIsAbsent : Prop :=
  ∀ s t : State, PollCountKept s → step s = .next t → t.params = s.params ∧ PollCountKept t

/-- The state after block reset meets every invariant, with any parameters. -/
def Obligations.ResetMeetsTheInvariants : Prop :=
  ∀ p : Params, PinsSafe (State.resetWith p) ∧ HandshakeKept (State.resetWith p) ∧
    commitAtEnd (State.resetWith p).seq = true ∧ DdramCanonical (State.resetWith p) ∧ PollCountKept (State.resetWith p)

/-! ### Reset -/

/-- R43, R23: the values after block reset. -/
def Obligations.ResetValues : Prop :=
  State.reset.seq = [] ∧ State.reset.reql = 0 ∧ (statusWord State.reset).toNat = 1 ∧
    (respWord State.reset).toNat = 0 ∧ (cfgWord State.reset).toNat = 0 ∧
    (cfgWord (State.resetWith (Params.forMode .nibble4))).toNat = 4 ∧ (curWord State.reset).toNat = 0 ∧
    State.reset.pollcnt = 0 ∧ State.reset.pins.e = false ∧ State.reset.pins.rw = false ∧
    State.reset.pins.rs = false ∧ State.reset.pins.ctrlOe = false ∧ State.reset.pins.dbOe = false ∧
    State.reset.pins.dbLoOut = 0 ∧ State.reset.pins.dbHiOut = 0

/-- R240, R43: block reset, at any point of a request, puts the block at its reset state, abandons the request with
ERR 0, releases the pins, and leaves the trace; a host write still held stays held (turns and the held write: logs 6, 20).
That the reference model is refused after it exactly when it was before (R72) is the model's choice (logs 14, 17). -/
def Obligations.BlockResetAbandonsAnyRequest : Prop :=
  ∀ s : State, nextTurn s = .blockReset →
    ∃ t, step s = .next t ∧ t.seq = [] ∧ t.reql = 0 ∧ t.pollcnt = 0 ∧ t.params = s.params ∧ t.trace = s.trace ∧
      t.hostQ = s.hostQ ∧ t.lcd.offModel = s.lcd.offModel ∧
      t.regs = { initd := false, err := .ok, resp := 0, cfg := ⟨0, 0⟩, cur := ⟨0, 0⟩ } ∧
      t.pins.e = false ∧ t.pins.rw = false ∧ t.pins.rs = false ∧ t.pins.ctrlOe = false ∧ t.pins.dbOe = false ∧
      t.pins.dbLoOut = 0 ∧ t.pins.dbHiOut = 0

/-- R78, R242, R254: the controller's power-up, its supply rise met, leaves the reference power-on state, in NIBBLE4
with 4-bit mode already entered (log 19); board bring-up and power-up change nothing of the block (turns: log 6, the
flags: log 10). That the cells not implemented then read 0x20 too is the model's choice (log 9), and so is what an
address above 127, which is no cell, reads as (log 15). -/
def Obligations.BootStepsLeaveThePowerOnState : Prop :=
  ∀ s : State,
    (nextTurn s = .boardBringUp → step s = .next { s with turns := s.turns.tail, boardUp := true }) ∧
    (∀ met, nextTurn s = .controllerPowerUp met →
      ∃ t, step s = .next t ∧ t = { s with turns := s.turns.tail, lcdUp := true, lcd := t.lcd }) ∧
    (nextTurn s = .controllerPowerUp true →
      ∃ t, step s = .next t ∧ (∀ a, Memory.read t.lcd.ddram a = 0x20) ∧ t.lcd.ac = 0 ∧ t.lcd.incr = 1 ∧
        t.lcd.shift = 0 ∧ t.lcd.dispOn = 0 ∧ t.lcd.cursorOn = 0 ∧ t.lcd.blinkOn = 0 ∧ t.lcd.n = 0 ∧ t.lcd.f = 0 ∧
        t.lcd.rdok = false ∧ t.lcd.dl = if s.params.busMode = .split8 then 1 else 0)
end

