-- ==== Sys2Proof/Laws/Decode.lean ====
section
/-! SUPPORT. The fields of an encoded request word, and which format decodes to which instructions. -/
namespace Sys2Proof

@[simp] theorem opcOf_requestWord (o : BitVec 4) (b a : Flag) (g : Byte) : opcOf (requestWord o b a g) = o := by
  apply BitVec.eq_of_getLsbD_eq
  intro i hi
  simp only [opcOf, requestWord, BitVec.getLsbD_extractLsb', BitVec.getLsbD_append]
  simp [hi, show ¬ 12 + i < 12 by omega]

@[simp] theorem rsvOf_requestWord (o : BitVec 4) (b a : Flag) (g : Byte) : rsvOf (requestWord o b a g) = 0 := by
  apply BitVec.eq_of_getLsbD_eq
  intro i hi
  simp only [rsvOf, requestWord, BitVec.getLsbD_extractLsb', BitVec.getLsbD_append]
  simp [hi, show 10 + i < 12 by omega, show ¬ 10 + i < 10 by omega]

@[simp] theorem bOf_requestWord (o : BitVec 4) (b a : Flag) (g : Byte) : bOf (requestWord o b a g) = b := by
  apply BitVec.eq_of_getLsbD_eq
  intro i hi
  simp only [bOf, requestWord, BitVec.getLsbD_extractLsb', BitVec.getLsbD_append]
  simp [hi, show 9 + i < 12 by omega, show 9 + i < 10 by omega, show ¬ 9 + i < 9 by omega]

@[simp] theorem aOf_requestWord (o : BitVec 4) (b a : Flag) (g : Byte) : aOf (requestWord o b a g) = a := by
  apply BitVec.eq_of_getLsbD_eq
  intro i hi
  simp only [aOf, requestWord, BitVec.getLsbD_extractLsb', BitVec.getLsbD_append]
  simp [hi, show 8 + i < 12 by omega, show 8 + i < 10 by omega, show 8 + i < 9 by omega, show ¬ 8 + i < 8 by omega]

@[simp] theorem argOf_requestWord (o : BitVec 4) (b a : Flag) (g : Byte) : argOf (requestWord o b a g) = g := by
  apply BitVec.eq_of_getLsbD_eq
  intro i hi
  simp only [argOf, requestWord, BitVec.getLsbD_extractLsb', BitVec.getLsbD_append]
  simp [hi, show i < 12 by omega, show i < 10 by omega, show i < 9 by omega]

/-- A command byte decodes to one of the eight command classes, never to a request. -/
theorem decodeCommand_isCommand {c : Byte} {i : Instr} (h : decodeCommand c = .ok i) : i.isRequest = false := by
  simp only [decodeCommand] at h
  repeat' split at h
  all_goals cases h
  all_goals rfl

theorem guardZero_ok {ok : Bool} {i j : Instr} (h : guardZero ok i = .ok j) : j = i := by
  simp only [guardZero] at h
  split at h <;> simp_all

/-- A request word decodes to one of the thirteen requests, never to a command. -/
theorem decodeRequest_isRequest {w : Word16} {i : Instr} (h : decodeRequest w = .ok i) : i.isRequest = true := by
  simp only [decodeRequest] at h
  split at h
  · cases h
  · split at h <;> first | cases h | (have h := guardZero_ok h; subst h; rfl)

end Sys2Proof
end

