-- ==== Sys2Proof/Laws/Memory.lean ====
section
/-! SUPPORT. DDRAM: every memory operation keeps the canonical form; a read after a write. -/
namespace Sys2Proof.Machine

theorem Memory.wf_nil : Memory.wf [] := ⟨.nil, by simp⟩

theorem Memory.wf_tail {c : Host.Cell} {m : List Host.Cell} (h : Memory.wf (c :: m)) : Memory.wf m := by
  simp only [Memory.wf, List.pairwise_cons, List.forall_mem_cons] at h
  exact ⟨h.1.2, h.2.2⟩

/-- The addresses after a write: the written one, or old ones. -/
theorem Memory.mem_write {m : List Host.Cell} {a : Nat} {v : Byte} {c : Host.Cell}
    (h : c ∈ Memory.write m a v) : (c.1 = a ∧ c.2 = v ∧ v ≠ Memory.blank) ∨ c ∈ m := by
  induction m with
  | nil =>
    simp only [Memory.write, Memory.cons] at h
    split at h
    · simp at h
    · simp only [List.mem_singleton] at h; subst h; simp_all
  | cons d m ih =>
    simp only [Memory.write, Memory.cons] at h
    split at h
    · split at h
      · exact .inr h
      · rcases List.mem_cons.1 h with rfl | h <;> simp_all
    · split at h
      · split at h
        · exact .inr (List.mem_cons_of_mem _ h)
        · rcases List.mem_cons.1 h with rfl | h <;> simp_all
      · rcases List.mem_cons.1 h with rfl | h
        · simp
        · rcases ih h with h | h
          · exact .inl h
          · exact .inr (List.mem_cons_of_mem _ h)

/-- Writing inside DDRAM keeps the canonical form. -/
theorem Memory.write_wf {m : List Host.Cell} {a : Nat} {v : Byte} (ha : a < Memory.size) (h : Memory.wf m) :
    Memory.wf (Memory.write m a v) := by
  refine ⟨?_, fun c hc => ?_⟩
  · induction m with
    | nil => simp only [Memory.write, Memory.cons]; split <;> simp
    | cons d m ih =>
      have hp := List.pairwise_cons.1 h.1
      have ht := ih (Memory.wf_tail h)
      simp only [Memory.write, Memory.cons]
      split
      · split
        · exact h.1
        · refine List.pairwise_cons.2 ⟨fun c hc => ?_, h.1⟩
          rcases List.mem_cons.1 hc with rfl | hc
          · assumption
          · exact lt_trans (by assumption) (hp.1 c hc)
      · split
        · split
          · exact hp.2
          · refine List.pairwise_cons.2 ⟨fun c hc => ?_, hp.2⟩
            have := hp.1 c hc
            simp_all
        · refine List.pairwise_cons.2 ⟨fun c hc => ?_, ht⟩
          rcases Memory.mem_write hc with ⟨h1, -⟩ | hc
          · omega
          · exact hp.1 c hc
  · rcases Memory.mem_write hc with ⟨h1, h2, h3⟩ | hc
    · exact ⟨h1 ▸ ha, h2 ▸ h3⟩
    · exact h.2 c hc

/-- Every address of a canonical tail is above the head's. -/
theorem Memory.read_below {m : List Host.Cell} {a : Nat} (h : ∀ c ∈ m, a < c.1) :
    Memory.read m a = Memory.blank := by
  induction m with
  | nil => rfl
  | cons d m ih =>
    simp only [List.forall_mem_cons] at h
    simp only [Memory.read, ih h.2]
    rw [if_neg (by omega)]

/-- A read after a write to the same address gives the byte written. -/
theorem Memory.read_write_same {m : List Host.Cell} {a : Nat} {v : Byte} (h : Memory.wf m) :
    Memory.read (Memory.write m a v) a = v := by
  induction m with
  | nil => simp only [Memory.write, Memory.cons]; split <;> simp_all [Memory.read]
  | cons d m ih =>
    have hp := List.pairwise_cons.1 h.1
    have hi := ih (Memory.wf_tail h)
    simp only [Memory.write, Memory.cons]
    split
    · split
      · have : ∀ c ∈ d :: m, a < c.1 := by
          simp only [List.forall_mem_cons]
          exact ⟨by assumption, fun c hc => lt_trans (by assumption) (hp.1 c hc)⟩
        rw [Memory.read_below this]; simp_all
      · simp [Memory.read]
    · split
      · split
        · have : ∀ c ∈ m, a < c.1 := fun c hc => by have := hp.1 c hc; simp_all
          rw [Memory.read_below this]; simp_all
        · simp [Memory.read]
      · rw [Memory.read, if_neg (by omega), hi]

/-- A write leaves every other address as it was. -/
theorem Memory.read_write_other {m : List Host.Cell} {a b : Nat} {v : Byte} (hab : b ≠ a) :
    Memory.read (Memory.write m a v) b = Memory.read m b := by
  induction m with
  | nil =>
    simp only [Memory.write, Memory.cons]
    split
    · rfl
    · simp [Memory.read, hab.symm]
  | cons d m ih =>
    simp only [Memory.write, Memory.cons]
    split
    · split
      · rfl
      · rw [Memory.read, if_neg (by simpa using hab.symm)]
    · split
      · split
        · rw [Memory.read, if_neg (by omega)]
        · rw [Memory.read, if_neg (by simpa using hab.symm), Memory.read, if_neg (by omega)]
      · rw [Memory.read, Memory.read, ih]

/-- Clearing keeps the canonical form. -/
theorem Memory.clear_wf {n : Flag} {m : List Host.Cell} (h : Memory.wf m) : Memory.wf (Memory.clear n m) :=
  ⟨h.1.filter _, fun c hc => h.2 c (List.mem_filter.1 hc).1⟩

/-- After a clear, an implemented address reads as the blank, and another as before. -/
theorem Memory.read_clear (n : Flag) (m : List Host.Cell) (a : Nat) :
    Memory.read (Memory.clear n m) a =
      if Memory.implemented n a then Memory.blank else Memory.read m a := by
  induction m with
  | nil => simp [Memory.clear, Memory.read]
  | cons d m ih =>
    simp only [Memory.clear] at ih ⊢
    by_cases hd : Memory.implemented n d.1 = true
    · rw [List.filter_cons_of_neg (by simp [hd]), ih]
      by_cases hda : d.1 = a
      · simp [← hda, hd]
      · simp [Memory.read, hda]
    · rw [List.filter_cons_of_pos (by simp [hd])]
      by_cases hda : d.1 = a
      · subst hda; simp [Memory.read, hd]
      · simp [Memory.read, hda, ih]

theorem Memory.foldl_write_wf {l : List Nat} {v : Nat → Byte} {m : List Host.Cell}
    (hl : ∀ a ∈ l, a < Memory.size) (h : Memory.wf m) :
    Memory.wf (l.foldl (fun m a => Memory.write m a (v a)) m) := by
  induction l generalizing m with
  | nil => exact h
  | cons a l ih =>
    simp only [List.forall_mem_cons] at hl
    exact ih hl.2 (Memory.write_wf hl.1 h)

/-- Contents of which nothing is known are in canonical form. -/
theorem Memory.any_wf (fresh : Nat) : Memory.wf (Memory.any fresh) := by
  unfold Memory.any
  exact Memory.foldl_write_wf (fun _ ha => List.mem_range.1 ha) Memory.wf_nil

end Sys2Proof.Machine
end

