-- ==== Sys2Proof/Laws/PerInstr.lean ====
section
/-! SUPPORT. Statements made per instruction: each one's encoding matches its row of the opcode map (R94, R97). -/
namespace Sys2Proof.Laws.EncodesItsRow

/-- The match and mask of an instruction's row: 16 bits for a request (R94), 8 for a command byte (R97). -/
def row : Instr → Nat × Nat
  | .init => (0x1000, 0xFFFF)
  | .write _ _ => (0x2000, 0xFE00)
  | .read _ => (0x3000, 0xFEFF)
  | .busy => (0x4000, 0xFFFF)
  | .clear => (0x5000, 0xFFFF)
  | .home => (0x6000, 0xFFFF)
  | .entry _ => (0x7000, 0xFEFF)
  | .display _ => (0x8000, 0xFEFF)
  | .configure _ _ => (0x9000, 0xFCFF)
  | .setaddr _ => (0xA000, 0xFF00)
  | .line _ => (0xB000, 0xFEFF)
  | .feed _ => (0xC000, 0xFF00)
  | .ldcur _ _ => (0xD000, 0xFE00)
  | .cmdClear => (0x01, 0xFF)
  | .cmdHome => (0x02, 0xFE)
  | .cmdEntry _ _ => (0x04, 0xFC)
  | .cmdDisplay _ _ _ => (0x08, 0xF8)
  | .cmdShift _ _ => (0x10, 0xF0)
  | .cmdFunctionSet _ _ _ => (0x20, 0xE0)
  | .cmdSetCgram _ => (0x40, 0xC0)
  | .cmdSetDdram _ => (0x80, 0x80)

/-- The bits of a code. -/
def bits : Code → Nat
  | .request w => w.toNat
  | .command b => b.toNat

/-- A word selects its row: `(w & mask) = match` (R94), in the row's own format. -/
def Statement (i : Instr) : Prop :=
  bits (encode i) &&& (row i).2 = (row i).1 ∧
    (i.isRequest = match encode i with
      | .request _ => true
      | .command _ => false)

theorem init : Statement .init := by unfold Statement; decide
theorem write (rs : Rs) (payload : Byte) : Statement (.write rs payload) := by
  unfold Statement; cases rs <;> revert payload <;> decide
theorem read (rs : Rs) : Statement (.read rs) := by unfold Statement; cases rs <;> decide
theorem busy : Statement .busy := by unfold Statement; decide
theorem clear : Statement .clear := by unfold Statement; decide
theorem home : Statement .home := by unfold Statement; decide
theorem entry (increment : Flag) : Statement (.entry increment) := by unfold Statement; revert increment; decide
theorem display (on : Flag) : Statement (.display on) := by unfold Statement; revert on; decide
theorem configure (lines font : Flag) : Statement (.configure lines font) := by
  unfold Statement; revert lines font; decide
theorem setaddr (addr : Byte) : Statement (.setaddr addr) := by unfold Statement; revert addr; decide
theorem line (n : Nat) : Statement (.line n) := by
  unfold Statement
  simp only [encode, row]
  generalize BitVec.ofNat 1 (n - 1) = a
  revert a; decide
theorem feed (char : Byte) : Statement (.feed char) := by unfold Statement; revert char; decide
theorem ldcur (line : Flag) (col : Byte) : Statement (.ldcur line col) := by
  unfold Statement; revert line col; decide
theorem cmdClear : Statement .cmdClear := by unfold Statement; decide
theorem cmdHome : Statement .cmdHome := by unfold Statement; decide
theorem cmdEntry (incr shift : Flag) : Statement (.cmdEntry incr shift) := by
  unfold Statement; revert incr shift; decide
theorem cmdDisplay (disp cursor blink : Flag) : Statement (.cmdDisplay disp cursor blink) := by
  unfold Statement; revert disp cursor blink; decide
theorem cmdShift (sc rl : Flag) : Statement (.cmdShift sc rl) := by unfold Statement; revert sc rl; decide
theorem cmdFunctionSet (dl n f : Flag) : Statement (.cmdFunctionSet dl n f) := by
  unfold Statement; revert dl n f; decide
theorem cmdSetCgram (addr : BitVec 6) : Statement (.cmdSetCgram addr) := by unfold Statement; revert addr; decide
theorem cmdSetDdram (addr : BitVec 7) : Statement (.cmdSetDdram addr) := by unfold Statement; revert addr; decide

end Sys2Proof.Laws.EncodesItsRow
end

