-- ==== Sys2Proof/Laws/ReferenceLcd.lean ====
section
/-! SUPPORT. The reference controller: every operation keeps DDRAM canonical; none but the latching of a frame touches
the pending frame; and none takes back a refusal of the reference model. -/
namespace Sys2Proof.Machine

@[simp] theorem anyController_pending (c : Lcd) : (anyController c).pending = c.pending := rfl
@[simp] theorem anyController_offModel (c : Lcd) : (anyController c).offModel = c.offModel := rfl
@[simp] theorem anyPending_ddram (c : Lcd) : (anyPending c).ddram = c.ddram := rfl
@[simp] theorem anyPending_offModel (c : Lcd) : (anyPending c).offModel = c.offModel := rfl
@[simp] theorem lcdSetCgram_pending (c : Lcd) : (lcdSetCgram c).pending = c.pending := rfl
@[simp] theorem lcdSetCgram_offModel (c : Lcd) : (lcdSetCgram c).offModel = true := rfl
@[simp] theorem latchIn_ddram (f : Frame) (c : Lcd) : (latchIn f c).ddram = c.ddram := rfl
@[simp] theorem latchIn_pending (f : Frame) (c : Lcd) : (latchIn f c).pending = some f := rfl
@[simp] theorem latchIn_offModel (f : Frame) (c : Lcd) : (latchIn f c).offModel = (c.offModel || f.setsCgram) := rfl

/-- A frame that sets the CGRAM address decodes to that command (R65, R72). -/
theorem decode_setsCgram {f : Frame} (h : f.setsCgram = true) :
    f.rs = .C ∧ ∃ a, decode (.command f.payload) = .ok (.cmdSetCgram a) := by
  simp only [Frame.setsCgram, Bool.and_eq_true, beq_iff_eq] at h
  refine ⟨h.1, f.payload.extractLsb' 0 6, ?_⟩
  obtain ⟨-, h⟩ := h
  generalize f.payload = b at h
  revert b
  decide

theorem anyController_wf (c : Lcd) : Memory.wf (anyController c).ddram := Memory.any_wf _

theorem storeGlyph_wf {c : Lcd} (b : Byte) (h : Memory.wf c.ddram) : Memory.wf (storeGlyph b c).ddram := by
  unfold storeGlyph
  split
  · exact Memory.write_wf c.ac.isLt h
  · exact Memory.any_wf _

theorem lcdCommand_wf {c : Lcd} (i : Instr) (h : Memory.wf c.ddram) : Memory.wf (lcdCommand i c).ddram := by
  cases i with
  | cmdClear => exact Memory.clear_wf h
  | cmdShift sc rl => simp only [lcdCommand, lcdShift]; split <;> exact h
  | cmdSetCgram a => exact anyController_wf _
  | _ => exact h

@[simp] theorem shiftWindow_ddram (c : Lcd) : (shiftWindow c).ddram = c.ddram := by
  unfold shiftWindow; split <;> rfl

@[simp] theorem shiftWindow_pending (c : Lcd) : (shiftWindow c).pending = c.pending := by
  unfold shiftWindow; split <;> rfl

@[simp] theorem storeGlyph_pending (b : Byte) (c : Lcd) : (storeGlyph b c).pending = c.pending := by
  unfold storeGlyph; split <;> rfl

/-- A data write changes DDRAM only by the store (R74). -/
@[simp] theorem lcdDataWrite_ddram (b : Byte) (c : Lcd) : (lcdDataWrite b c).ddram = (storeGlyph b c).ddram := by
  simp [lcdDataWrite, moveAc]

@[simp] theorem lcdDataWrite_pending (b : Byte) (c : Lcd) : (lcdDataWrite b c).pending = c.pending := by
  simp [lcdDataWrite, moveAc]

theorem lcdDataWrite_wf {c : Lcd} (b : Byte) (h : Memory.wf c.ddram) : Memory.wf (lcdDataWrite b c).ddram := by
  rw [lcdDataWrite_ddram]; exact storeGlyph_wf b h

/-- Executing a frame keeps DDRAM canonical. -/
theorem executeFrame_wf {c : Lcd} (f : Frame) (h : Memory.wf c.ddram) : Memory.wf (executeFrame f c).ddram := by
  simp only [executeFrame]
  split
  · exact anyController_wf c
  · split
    · exact lcdDataWrite_wf _ h
    · split
      · exact lcdCommand_wf _ h
      · exact anyController_wf c

theorem finishPending_wf {c : Lcd} (h : Memory.wf c.ddram) : Memory.wf (finishPending c).ddram := by
  simp only [finishPending]
  split
  · exact h
  · exact executeFrame_wf _ h

/-- An answer keeps DDRAM canonical. -/
theorem referenceAnswer_wf {c : Lcd} (r : Rs) (d : Byte) (h : Memory.wf c.ddram) :
    Memory.wf (referenceAnswer r d c).2.ddram := by
  cases r
  · simp only [referenceAnswer, referenceStatus]
    split <;> split <;> first | exact h | exact finishPending_wf h
  · simp only [referenceAnswer, referenceData]
    split <;> exact h

theorem lcdCommand_pending (i : Instr) (c : Lcd) : (lcdCommand i c).pending = c.pending := by
  cases i with
  | cmdShift sc rl => simp only [lcdCommand, lcdShift]; split <;> rfl
  | _ => rfl

@[simp] theorem executeFrame_pending (f : Frame) (c : Lcd) : (executeFrame f c).pending = c.pending := by
  simp only [executeFrame]
  split
  · rfl
  · split
    · exact lcdDataWrite_pending _ _
    · split
      · exact lcdCommand_pending _ _
      · rfl

/-- Once the controller has finished what it had latched, nothing is pending. -/
@[simp] theorem finishPending_pending (c : Lcd) : (finishPending c).pending = none := by
  simp only [finishPending]
  split
  · assumption
  · simp

/-- Executing a frame whose latching refused the reference model is executing the frame (R72). -/
theorem executeFrame_latched (f : Frame) (c : Lcd) :
    executeFrame f { c with offModel := c.offModel || f.setsCgram } = executeFrame f c := by
  cases hf : f.setsCgram
  · simp
  · cases hc : c.offModel
    · obtain ⟨h1, a, h2⟩ := decode_setsCgram hf
      simp only [executeFrame, Bool.or_true, if_true, hc, h1, h2, lcdCommand]
      rfl
    · simp only [Bool.or_true, executeFrame, if_true, hc]
      rw [← hc]

/-- A controller holding frame `f` finishes it by executing it. -/
@[simp] theorem finishPending_latchIn (f : Frame) (c : Lcd) (h : c.pending = none) :
    finishPending (latchIn f c) = executeFrame f c := by
  rw [← executeFrame_latched]
  simp only [finishPending, latchIn]
  rw [← h]

/-! ### The refusal of the reference model lasts (R72) -/

theorem lcdDataWrite_offModel (b : Byte) (c : Lcd) : (lcdDataWrite b c).offModel = c.offModel := by
  simp only [lcdDataWrite, shiftWindow, storeGlyph, moveAc, moveWindow]
  split <;> split <;> rfl

theorem lcdCommand_offModel {i : Instr} {c : Lcd} (h : c.offModel = true) : (lcdCommand i c).offModel = true := by
  cases i with
  | cmdShift sc rl => simp only [lcdCommand, lcdShift, moveWindow]; split <;> exact h
  | cmdSetCgram a => rfl
  | _ => exact h

theorem executeFrame_offModel (f : Frame) {c : Lcd} (h : c.offModel = true) : (executeFrame f c).offModel = true := by
  rw [executeFrame, if_pos h]
  exact h

theorem finishPending_offModel {c : Lcd} (h : c.offModel = true) : (finishPending c).offModel = true := by
  simp only [finishPending]
  split
  · exact h
  · exact executeFrame_offModel _ h

/-- Once the reference model is refused, every answer is the draw and the refusal stays (R60, R72). -/
theorem referenceAnswer_offModel (r : Rs) (d : Byte) {c : Lcd} (h : c.offModel = true) :
    (referenceAnswer r d c).1 = d ∧ (referenceAnswer r d c).2.offModel = true := by
  cases r
  · have key : (if d.getLsbD 7 = true then c else finishPending c).offModel = true := by
      split
      · exact h
      · exact finishPending_offModel h
    simp only [referenceAnswer, referenceStatus]
    rw [if_pos key]
    exact ⟨rfl, key⟩
  · simp only [referenceAnswer, referenceData]
    rw [if_pos h]; exact ⟨rfl, h⟩

/-! ### Power-up -/

theorem lcdPowerUp_wf (m : BusMode) (met : Bool) (c : Lcd) : Memory.wf (lcdPowerUp m met c).ddram := by
  simp only [lcdPowerUp]
  split
  · exact Memory.wf_nil
  · exact anyController_wf c

@[simp] theorem lcdPowerUp_offModel (m : BusMode) (met : Bool) (c : Lcd) :
    (lcdPowerUp m met c).offModel = c.offModel := by
  simp only [lcdPowerUp]
  split <;> rfl

/-- A busy check whose draw is clear finds the controller not busy, the pending frame executed. -/
theorem referenceAnswer_clear {d : Byte} (c : Lcd) (h : d.getLsbD 7 = false) :
    (referenceAnswer .C d c).2 = finishPending c ∧ (referenceAnswer .C d c).1.getLsbD 7 = false := by
  simp only [referenceAnswer, referenceStatus, h, Bool.false_eq_true, if_false]
  split
  · exact ⟨rfl, h⟩
  · refine ⟨rfl, ?_⟩
    rw [finishPending_pending, BitVec.getLsbD_append]
    rfl

end Sys2Proof.Machine
end

