-- ==== Sys2Proof/Laws/State.lean ====
section
/-! SUPPORT. The fields of the named state updates: one lemma per field that says what the update leaves, so that no
later proof unfolds a record update. -/
namespace Sys2Proof.Machine

@[simp] theorem State.emit_params (ev : Event) (s : State) : (s.emit ev).params = s.params := rfl
@[simp] theorem State.emit_seq (ev : Event) (s : State) : (s.emit ev).seq = s.seq := rfl
@[simp] theorem State.emit_reql (ev : Event) (s : State) : (s.emit ev).reql = s.reql := rfl
@[simp] theorem State.emit_regs (ev : Event) (s : State) : (s.emit ev).regs = s.regs := rfl
@[simp] theorem State.emit_pollcnt (ev : Event) (s : State) : (s.emit ev).pollcnt = s.pollcnt := rfl
@[simp] theorem State.emit_pins (ev : Event) (s : State) : (s.emit ev).pins = s.pins := rfl
@[simp] theorem State.emit_tx (ev : Event) (s : State) : (s.emit ev).tx = s.tx := rfl
@[simp] theorem State.emit_rxLo (ev : Event) (s : State) : (s.emit ev).rxLo = s.rxLo := rfl
@[simp] theorem State.emit_rxHi (ev : Event) (s : State) : (s.emit ev).rxHi = s.rxHi := rfl
@[simp] theorem State.emit_acc (ev : Event) (s : State) : (s.emit ev).acc = s.acc := rfl
@[simp] theorem State.emit_wire (ev : Event) (s : State) : (s.emit ev).wire = s.wire := rfl
@[simp] theorem State.emit_trace (ev : Event) (s : State) : (s.emit ev).trace = s.trace ++ [ev] := rfl
@[simp] theorem State.emit_lcd (ev : Event) (s : State) : (s.emit ev).lcd = s.lcd := rfl
@[simp] theorem State.emit_hostQ (ev : Event) (s : State) : (s.emit ev).hostQ = s.hostQ := rfl
@[simp] theorem State.emit_hostData (ev : Event) (s : State) : (s.emit ev).hostData = s.hostData := rfl
@[simp] theorem State.emit_turns (ev : Event) (s : State) : (s.emit ev).turns = s.turns := rfl
@[simp] theorem State.emit_quantum (ev : Event) (s : State) : (s.emit ev).quantum = s.quantum := rfl
@[simp] theorem State.emit_answers (ev : Event) (s : State) : (s.emit ev).answers = s.answers := rfl
@[simp] theorem State.emit_reads (ev : Event) (s : State) : (s.emit ev).reads = s.reads := rfl
@[simp] theorem State.emit_boardUp (ev : Event) (s : State) : (s.emit ev).boardUp = s.boardUp := rfl
@[simp] theorem State.emit_lcdUp (ev : Event) (s : State) : (s.emit ev).lcdUp = s.lcdUp := rfl

@[simp] theorem State.drawn_params (s : State) : (s.drawn).params = s.params := rfl
@[simp] theorem State.drawn_seq (s : State) : (s.drawn).seq = s.seq := rfl
@[simp] theorem State.drawn_reql (s : State) : (s.drawn).reql = s.reql := rfl
@[simp] theorem State.drawn_regs (s : State) : (s.drawn).regs = s.regs := rfl
@[simp] theorem State.drawn_pollcnt (s : State) : (s.drawn).pollcnt = s.pollcnt := rfl
@[simp] theorem State.drawn_pins (s : State) : (s.drawn).pins = s.pins := rfl
@[simp] theorem State.drawn_tx (s : State) : (s.drawn).tx = s.tx := rfl
@[simp] theorem State.drawn_rxLo (s : State) : (s.drawn).rxLo = s.rxLo := rfl
@[simp] theorem State.drawn_rxHi (s : State) : (s.drawn).rxHi = s.rxHi := rfl
@[simp] theorem State.drawn_acc (s : State) : (s.drawn).acc = s.acc := rfl
@[simp] theorem State.drawn_wire (s : State) : (s.drawn).wire = s.wire := rfl
@[simp] theorem State.drawn_trace (s : State) : (s.drawn).trace = s.trace := rfl
@[simp] theorem State.drawn_lcd (s : State) : (s.drawn).lcd = s.lcd := rfl
@[simp] theorem State.drawn_hostQ (s : State) : (s.drawn).hostQ = s.hostQ := rfl
@[simp] theorem State.drawn_hostData (s : State) : (s.drawn).hostData = s.hostData := rfl
@[simp] theorem State.drawn_turns (s : State) : (s.drawn).turns = s.turns := rfl
@[simp] theorem State.drawn_quantum (s : State) : (s.drawn).quantum = s.quantum := rfl
@[simp] theorem State.drawn_answers (s : State) : (s.drawn).answers = s.answers.tail := rfl
@[simp] theorem State.drawn_reads (s : State) : (s.drawn).reads = s.reads + 1 := rfl
@[simp] theorem State.drawn_boardUp (s : State) : (s.drawn).boardUp = s.boardUp := rfl
@[simp] theorem State.drawn_lcdUp (s : State) : (s.drawn).lcdUp = s.lcdUp := rfl

@[simp] theorem State.answered_params (r : Rs) (s : State) : (s.answered r).params = s.params := rfl
@[simp] theorem State.answered_seq (r : Rs) (s : State) : (s.answered r).seq = s.seq := rfl
@[simp] theorem State.answered_reql (r : Rs) (s : State) : (s.answered r).reql = s.reql := rfl
@[simp] theorem State.answered_regs (r : Rs) (s : State) : (s.answered r).regs = s.regs := rfl
@[simp] theorem State.answered_pollcnt (r : Rs) (s : State) : (s.answered r).pollcnt = s.pollcnt := rfl
@[simp] theorem State.answered_pins (r : Rs) (s : State) : (s.answered r).pins = s.pins := rfl
@[simp] theorem State.answered_tx (r : Rs) (s : State) : (s.answered r).tx = s.tx := rfl
@[simp] theorem State.answered_rxLo (r : Rs) (s : State) : (s.answered r).rxLo = s.rxLo := rfl
@[simp] theorem State.answered_rxHi (r : Rs) (s : State) : (s.answered r).rxHi = s.rxHi := rfl
@[simp] theorem State.answered_acc (r : Rs) (s : State) : (s.answered r).acc = s.acc := rfl
@[simp] theorem State.answered_wire (r : Rs) (s : State) : (s.answered r).wire = s.wire := rfl
@[simp] theorem State.answered_trace (r : Rs) (s : State) : (s.answered r).trace = s.trace := rfl
@[simp] theorem State.answered_lcd (r : Rs) (s : State) : (s.answered r).lcd = s.lcdAnswered r := rfl
@[simp] theorem State.answered_hostQ (r : Rs) (s : State) : (s.answered r).hostQ = s.hostQ := rfl
@[simp] theorem State.answered_hostData (r : Rs) (s : State) : (s.answered r).hostData = s.hostData := rfl
@[simp] theorem State.answered_turns (r : Rs) (s : State) : (s.answered r).turns = s.turns := rfl
@[simp] theorem State.answered_quantum (r : Rs) (s : State) : (s.answered r).quantum = s.quantum := rfl
@[simp] theorem State.answered_answers (r : Rs) (s : State) : (s.answered r).answers = s.answers.tail := rfl
@[simp] theorem State.answered_reads (r : Rs) (s : State) : (s.answered r).reads = s.reads + 1 := rfl
@[simp] theorem State.answered_boardUp (r : Rs) (s : State) : (s.answered r).boardUp = s.boardUp := rfl
@[simp] theorem State.answered_lcdUp (r : Rs) (s : State) : (s.answered r).lcdUp = s.lcdUp := rfl

@[simp] theorem raiseError_params (c : ErrCode) (s : State) : (raiseError c s).params = s.params := rfl
@[simp] theorem raiseError_seq (c : ErrCode) (s : State) : (raiseError c s).seq = [] := rfl
@[simp] theorem raiseError_reql (c : ErrCode) (s : State) : (raiseError c s).reql = s.reql := rfl
@[simp] theorem raiseError_regs (c : ErrCode) (s : State) : (raiseError c s).regs = { s.regs with err := c } := rfl
@[simp] theorem raiseError_pollcnt (c : ErrCode) (s : State) : (raiseError c s).pollcnt = s.pollcnt := rfl
@[simp] theorem raiseError_pins (c : ErrCode) (s : State) : (raiseError c s).pins = s.pins := rfl
@[simp] theorem raiseError_tx (c : ErrCode) (s : State) : (raiseError c s).tx = s.tx := rfl
@[simp] theorem raiseError_rxLo (c : ErrCode) (s : State) : (raiseError c s).rxLo = s.rxLo := rfl
@[simp] theorem raiseError_rxHi (c : ErrCode) (s : State) : (raiseError c s).rxHi = s.rxHi := rfl
@[simp] theorem raiseError_acc (c : ErrCode) (s : State) : (raiseError c s).acc = s.acc := rfl
@[simp] theorem raiseError_wire (c : ErrCode) (s : State) : (raiseError c s).wire = s.wire := rfl
@[simp] theorem raiseError_trace (c : ErrCode) (s : State) : (raiseError c s).trace = s.trace := rfl
@[simp] theorem raiseError_lcd (c : ErrCode) (s : State) : (raiseError c s).lcd = s.lcd := rfl
@[simp] theorem raiseError_hostQ (c : ErrCode) (s : State) : (raiseError c s).hostQ = s.hostQ := rfl
@[simp] theorem raiseError_hostData (c : ErrCode) (s : State) : (raiseError c s).hostData = s.hostData := rfl
@[simp] theorem raiseError_turns (c : ErrCode) (s : State) : (raiseError c s).turns = s.turns := rfl
@[simp] theorem raiseError_quantum (c : ErrCode) (s : State) : (raiseError c s).quantum = s.quantum := rfl
@[simp] theorem raiseError_answers (c : ErrCode) (s : State) : (raiseError c s).answers = s.answers := rfl
@[simp] theorem raiseError_reads (c : ErrCode) (s : State) : (raiseError c s).reads = s.reads := rfl
@[simp] theorem raiseError_boardUp (c : ErrCode) (s : State) : (raiseError c s).boardUp = s.boardUp := rfl
@[simp] theorem raiseError_lcdUp (c : ErrCode) (s : State) : (raiseError c s).lcdUp = s.lcdUp := rfl

@[simp] theorem commitRequest_params (s : State) : (commitRequest s).params = s.params := rfl
@[simp] theorem commitRequest_seq (s : State) : (commitRequest s).seq = s.seq := rfl
@[simp] theorem commitRequest_reql (s : State) : (commitRequest s).reql = s.reql := rfl
@[simp] theorem commitRequest_regs (s : State) : (commitRequest s).regs = { committedRegs s with err := .ok } := rfl
@[simp] theorem commitRequest_pollcnt (s : State) : (commitRequest s).pollcnt = s.pollcnt := rfl
@[simp] theorem commitRequest_pins (s : State) : (commitRequest s).pins = s.pins := rfl
@[simp] theorem commitRequest_tx (s : State) : (commitRequest s).tx = s.tx := rfl
@[simp] theorem commitRequest_rxLo (s : State) : (commitRequest s).rxLo = s.rxLo := rfl
@[simp] theorem commitRequest_rxHi (s : State) : (commitRequest s).rxHi = s.rxHi := rfl
@[simp] theorem commitRequest_acc (s : State) : (commitRequest s).acc = s.acc := rfl
@[simp] theorem commitRequest_wire (s : State) : (commitRequest s).wire = s.wire := rfl
@[simp] theorem commitRequest_trace (s : State) : (commitRequest s).trace = s.trace := rfl
@[simp] theorem commitRequest_lcd (s : State) : (commitRequest s).lcd = s.lcd := rfl
@[simp] theorem commitRequest_hostQ (s : State) : (commitRequest s).hostQ = s.hostQ := rfl
@[simp] theorem commitRequest_hostData (s : State) : (commitRequest s).hostData = s.hostData := rfl
@[simp] theorem commitRequest_turns (s : State) : (commitRequest s).turns = s.turns := rfl
@[simp] theorem commitRequest_quantum (s : State) : (commitRequest s).quantum = s.quantum := rfl
@[simp] theorem commitRequest_answers (s : State) : (commitRequest s).answers = s.answers := rfl
@[simp] theorem commitRequest_reads (s : State) : (commitRequest s).reads = s.reads := rfl
@[simp] theorem commitRequest_boardUp (s : State) : (commitRequest s).boardUp = s.boardUp := rfl
@[simp] theorem commitRequest_lcdUp (s : State) : (commitRequest s).lcdUp = s.lcdUp := rfl


/-- The answers after one has been taken are the next ones. -/
@[simp] theorem State.drawAt_drawn (s : State) (k : Nat) : s.drawn.drawAt k = s.drawAt (k + 1) := by
  simp only [State.drawAt, State.drawn_answers, State.drawn_reads, List.getElem?_tail]
  congr 2
  omega

/-- `drawAt` looks at the answers alone. -/
theorem State.drawAt_congr {s t : State} (ha : t.answers = s.answers) (hr : t.reads = s.reads) (k : Nat) :
    t.drawAt k = s.drawAt k := by
  simp only [State.drawAt, ha, hr]

end Sys2Proof.Machine
end

