-- ==== Sys2Proof/Laws/Sequencer.lean ====
section
/-! SUPPORT. The sequencer: what a straight run of micro-operations, a raw read, a round of the busy poll, a raw
write and a BusWrite or BusRead do, said once. -/
namespace Sys2Proof.Machine

@[simp] theorem rsOfLevel_rsLevel (r : Rs) : rsOfLevel (rsLevel r) = r := by cases r <;> rfl

/-- Steering a byte onto the two segments and back gives the byte (R53). -/
@[simp] theorem join_split_byte (b : Byte) : join (split b).1 (split b).2 = b := by
  apply BitVec.eq_of_getLsbD_eq
  intro i hi
  simp only [join, split, BitVec.getLsbD_append, BitVec.getLsbD_extractLsb']
  by_cases h : i < 4
  · simp [h]
  · simp [h, show i - 4 < 4 by omega, show 4 + (i - 4) = i by omega]

/-- The high nibble of a joined byte is the high nibble (R53). -/
@[simp] theorem split_join_high (lo hi : Nibble) : (split (join lo hi)).2 = hi := by
  apply BitVec.eq_of_getLsbD_eq
  intro i h
  simp only [join, split, BitVec.getLsbD_append, BitVec.getLsbD_extractLsb']
  simp [h]

/-! ### Straight runs -/

/-- Micro-operations performed in order. -/
def runMicros (ops : List MicroOp) (s : State) : State := ops.foldl (fun u op => micro op u) s

@[simp] theorem runMicros_nil (s : State) : runMicros [] s = s := rfl

@[simp] theorem runMicros_cons (op : MicroOp) (ops : List MicroOp) (s : State) :
    runMicros (op :: ops) s = runMicros ops (micro op s) := rfl

@[simp] theorem runSeq_nil (q : Option Nat) (s : State) : runSeq q [] s = { s with seq := [] } := by
  cases q <;> rfl

/-- An unbounded turn performs an operation that is no busy test and goes on. -/
theorem runSeq_plain {op : MicroOp} (h : op ≠ .pollTest) (rest : List MicroOp) (s : State) :
    runSeq none (op :: rest) s = runSeq none rest (micro op s) := by
  simp [runSeq, h]

/-- An unbounded turn performs a run without a busy test as a whole. -/
theorem runSeq_straight {ops : List MicroOp} (h : .pollTest ∉ ops) (rest : List MicroOp) (s : State) :
    runSeq none (ops ++ rest) s = runSeq none rest (runMicros ops s) := by
  induction ops generalizing s with
  | nil => rfl
  | cons op ops ih =>
    simp only [List.mem_cons, not_or] at h
    rw [List.cons_append, runSeq_plain (Ne.symm h.1), ih h.2, runMicros_cons]

theorem pollTest_notMem_rawRead (m : BusMode) (r : Rs) : MicroOp.pollTest ∉ rawReadOps m r := by
  cases m <;> cases r <;> decide

theorem pollTest_notMem_rawWrite (m : BusMode) (r : Rs) : MicroOp.pollTest ∉ rawWriteOps m r := by
  cases m <;> cases r <;> decide

/-! ### A raw read -/

/-- The pins after a raw read that answered `v`. -/
def pinsAfterRead (m : BusMode) (r : Rs) (v : Byte) (p : Pins) : Pins :=
  { p with
    e := false
    rw := false
    rs := rsLevel r
    dbOe := true
    dbLoIn := match m with
      | .split8 => (split v).1
      | .nibble4 => p.dbLoIn
    dbHiIn := match m with
      | .split8 => (split v).2
      | .nibble4 => (split v).1 }

/-- The state after a raw read (R128, R129). -/
def readState (m : BusMode) (r : Rs) (s : State) : State :=
  { s.answered r with
    pins := pinsAfterRead m r (s.answer r) s.pins
    rxLo := (split (s.answer r)).1
    rxHi := (split (s.answer r)).2
    wire := match m with
      | .split8 => s.wire
      | .nibble4 => s.answer r }

/-- The pins while the controller answers a SPLIT8 read. -/
def pinsDriven (v : Byte) (p : Pins) : Pins := { p with e := true, dbLoIn := (split v).1, dbHiIn := (split v).2 }

/-- The pins while the controller answers the first pulse of a NIBBLE4 read. -/
def pinsDrivenHigh (v : Byte) (p : Pins) : Pins := { p with e := true, dbHiIn := (split v).2 }

theorem driveAnswer_at (p : Pins) (r : Rs) (s : State) (h : p.rs = rsLevel r) :
    driveAnswer { s with pins := p } = { s.answered r with pins := pinsDriven (s.answer r) p } := by
  have h' : rsOfLevel p.rs = r := by rw [h, rsOfLevel_rsLevel]
  simp only [driveAnswer, State.selected, h']
  rfl

theorem driveAnswerHigh_at (p : Pins) (r : Rs) (s : State) (h : p.rs = rsLevel r) :
    driveAnswerHigh { s with pins := p } =
      { s.answered r with wire := s.answer r, pins := pinsDrivenHigh (s.answer r) p } := by
  have h' : rsOfLevel p.rs = r := by rw [h, rsOfLevel_rsLevel]
  simp only [driveAnswerHigh, State.selected, h']
  rfl

/-- A raw read samples the byte the controller answered, and leaves the pins in output mode (R128, R129, R133). -/
theorem runMicros_rawRead (m : BusMode) (r : Rs) (s : State) :
    runMicros (rawReadOps m r) s = readState m r s := by
  cases m <;> simp only [rawReadOps, runMicros_cons, runMicros_nil, micro]
  · rw [driveAnswer_at _ r _ rfl]
    rfl
  · rw [driveAnswerHigh_at _ r _ rfl]
    rfl

@[simp] theorem readState_rxByte (m : BusMode) (r : Rs) (s : State) : (readState m r s).rxByte = s.answer r := by
  simp [State.rxByte, readState]

/-! ### The busy poll -/

/-- The state after one busy check, whatever it answered (R125). -/
def pollState (s : State) : State :=
  { (readState s.params.busMode .C s).emit (.poll (s.answer .C)) with pollcnt := pollCount s }

theorem micro_pollTest_read (s : State) :
    micro .pollTest (readState s.params.busMode .C s) = pollState s := by
  simp only [micro, pollState, readState_rxByte]
  rfl

/-- One round of the busy poll (R125): go on after a clear answer; after a busy one end the request if the bound is
reached, else go back to the start of the round. -/
theorem runSeq_pollRound (rest : List MicroOp) (s : State) :
    runSeq none (pollRoundOps s.params.busMode ++ rest) s =
      if busyFlag (s.answer .C) then
        if timedOut (pollState s) then raiseError .busTimeout (pollState s)
        else { pollState s with seq := pollRoundOps s.params.busMode ++ rest }
      else runSeq none rest (pollState s) := by
  have hp : (readState s.params.busMode .C s).params.busMode = s.params.busMode := by simp [readState]
  conv_lhs => rw [pollRoundOps, List.append_assoc, runSeq_straight (pollTest_notMem_rawRead _ _), runMicros_rawRead]
  simp only [List.singleton_append, runSeq, readState_rxByte, micro_pollTest_read, hp]
  simp

/-- A clear draw is a clear busy check, for either controller (R60, R77). -/
theorem busyFlag_answer {s : State} (h : busyFlag (s.drawAt 0) = false) : busyFlag (s.answer .C) = false := by
  unfold State.answer
  split
  · exact h
  · exact (referenceAnswer_clear s.lcd h).2

/-- After a clear draw, the reference controller has finished what it had latched; a drawn one is not followed. -/
theorem answered_clear_lcd {s : State} (h : busyFlag (s.drawAt 0) = false) :
    (s.params.controller = .draws → (s.answered .C).lcd = s.lcd) ∧
      (s.params.controller = .reference → (s.answered .C).lcd = finishPending s.lcd) := by
  constructor <;> intro hc <;> simp only [State.answered_lcd, State.lcdAnswered, hc]
  exact (referenceAnswer_clear s.lcd h).1

/-! ### A raw write -/

/-- The pins after a raw write of `b`. -/
def pinsAfterWrite (m : BusMode) (r : Rs) (b : Byte) (p : Pins) : Pins :=
  { p with
    e := false
    rw := false
    rs := rsLevel r
    dbLoOut := match m with
      | .split8 => (split b).1
      | .nibble4 => p.dbLoOut
    dbHiOut := match m with
      | .split8 => (split b).2
      | .nibble4 => (split b).1 }

/-- The state after a raw write of the loaded byte (R126, R127). -/
def writeState (r : Rs) (s : State) : State :=
  { s.emit (.wr r s.tx) with
    pins := pinsAfterWrite s.params.busMode r s.tx s.pins
    wire := match s.params.busMode with
      | .split8 => s.wire
      | .nibble4 => join 0 (split s.tx).2
    lcd := lcdDelivered s.params.controller { rs := r, payload := s.tx } s.lcd }

/-- A raw write puts the loaded byte on the pins, and that byte is what the controller latches (R126, R127). -/
theorem runMicros_rawWrite (r : Rs) (s : State) :
    runMicros (rawWriteOps s.params.busMode r) s = writeState r s := by
  unfold writeState
  cases hm : s.params.busMode <;> simp only [rawWriteOps, runMicros_cons, runMicros_nil, micro, latchFrame, busFrame,
    busByte, hm, rsOfLevel_rsLevel, join_split_byte, split_join_high] <;> rfl

/-! ### What a stretch of a sequence does -/

/-- From `s` to `t`, a stretch of a request's sequence: `k` answers taken (`draws`, `reads`), `evs` added to the trace, and the
registers, the surroundings and the request latch as they were; the pins end as between requests. -/
structure Moves (k : Nat) (evs : List Event) (s t : State) : Prop where
  trace : t.trace = s.trace ++ evs
  regs : t.regs = s.regs
  reql : t.reql = s.reql
  around : Surroundings s t
  draws : ∀ j, t.drawAt j = s.drawAt (j + k)
  reads : t.reads = s.reads + k
  pins : t.pins.e = false ∧ t.pins.rw = false ∧ t.pins.dbOe = true ∧ t.pins.ctrlOe = s.pins.ctrlOe

theorem Moves.trans {j k : Nat} {es fs : List Event} {s t u : State} (h : Moves j es s t) (g : Moves k fs t u) :
    Moves (j + k) (es ++ fs) s u where
  trace := by rw [g.trace, h.trace, List.append_assoc]
  regs := g.regs.trans h.regs
  reql := g.reql.trans h.reql
  around := by
    have := h.around
    have := g.around
    simp only [Surroundings] at *
    simp_all
  draws i := by rw [g.draws, h.draws]; congr 1; omega
  reads := by rw [g.reads, h.reads, Nat.add_assoc]
  pins := ⟨g.pins.1, g.pins.2.1, g.pins.2.2.1, g.pins.2.2.2.trans h.pins.2.2.2⟩

/-- What a busy check with a clear draw does (R125): one answer, one POLL, the pending frame finished. -/
theorem pollState_moves {s : State} (h : busyFlag (s.drawAt 0) = false) :
    Moves 1 [.poll (s.answer .C)] s (pollState s) ∧ (pollState s).acc = s.acc ∧ (pollState s).tx = s.tx ∧
      (s.params.controller = .draws → (pollState s).lcd = s.lcd) ∧
      (s.params.controller = .reference → (pollState s).lcd = finishPending s.lcd) :=
  ⟨⟨rfl, rfl, rfl, ⟨rfl, rfl, rfl, rfl, rfl, rfl, rfl⟩, fun j => State.drawAt_drawn s j, rfl, ⟨rfl, rfl, rfl, rfl⟩⟩,
    rfl, rfl,
    answered_clear_lcd h⟩

/-- PollBusy with a clear draw goes on with the rest of the sequence (R125). -/
theorem runSeq_pollBusy {s : State} (h : busyFlag (s.drawAt 0) = false) (rest : List MicroOp) :
    runSeq none (pollBusyOps s.params.busMode ++ rest) s = runSeq none rest (pollState { s with pollcnt := 0 }) := by
  rw [pollBusyOps, List.cons_append, runSeq_plain (by decide)]
  have hb : busyFlag (State.answer .C { s with pollcnt := 0 }) = false := busyFlag_answer h
  exact (runSeq_pollRound rest { s with pollcnt := 0 }).trans (by rw [hb]; rfl)

/-- PollBusy whose first answer is busy, with the bound 1: the request ends with BUS_TIMEOUT (R125, R215). -/
theorem runSeq_pollBusy_timeout {s : State} (h : busyFlag (s.answer .C) = true) (hn : s.params.busyTimeout = some 1)
    (rest : List MicroOp) :
    runSeq none (pollBusyOps s.params.busMode ++ rest) s = raiseError .busTimeout (pollState { s with pollcnt := 0 }) := by
  rw [pollBusyOps, List.cons_append, runSeq_plain (by decide)]
  have hb : busyFlag (State.answer .C { s with pollcnt := 0 }) = true := h
  have ht : timedOut (pollState { s with pollcnt := 0 }) = true := by
    show (s.params.busyTimeout == some (pollCount { s with pollcnt := 0 })) = true
    simp [pollCount, hn]
  exact (runSeq_pollRound rest { s with pollcnt := 0 }).trans (by rw [hb, ht]; rfl)

/-- BusWrite with a clear draw (R124): one POLL, then the WR; the controller holds the frame, having finished the
one before. -/
theorem runSeq_busWrite {s : State} (r : Rs) (b : Byte) (h : busyFlag (s.drawAt 0) = false) :
    ∃ t, (∀ rest, runSeq none (busWriteOps s.params.busMode r b ++ rest) s = runSeq none rest t) ∧
      Moves 1 [.poll (s.answer .C), .wr r b] s t ∧ t.acc = s.acc ∧
      (s.params.controller = .draws → t.lcd = s.lcd) ∧
      (s.params.controller = .reference →
        t.lcd = latchIn { rs := r, payload := b } (finishPending s.lcd)) := by
  obtain ⟨m, ha, -, hd, hr⟩ := pollState_moves (s := { s with tx := b, pollcnt := 0 }) h
  refine ⟨writeState r (pollState { s with tx := b, pollcnt := 0 }), fun rest => ?_, ?_, ha, fun hc => ?_, fun hc => ?_⟩
  · rw [busWriteOps, List.cons_append, List.append_assoc, runSeq_plain (by simp)]
    refine (runSeq_pollBusy (s := { s with tx := b }) h _).trans ?_
    rw [show s.params.busMode = (pollState { s with tx := b, pollcnt := 0 }).params.busMode from rfl]
    rw [runSeq_straight (pollTest_notMem_rawWrite _ _), runMicros_rawWrite]
  · refine ⟨?_, m.regs, m.reql, m.around, m.draws, m.reads, ⟨rfl, rfl, rfl, rfl⟩⟩
    show (pollState { s with tx := b, pollcnt := 0 }).trace ++ _ = _
    rw [m.trace, List.append_assoc]
    rfl
  · exact (congrArg (lcdDelivered · _ _) hc).trans (hd hc)
  · refine (congrArg (lcdDelivered · _ _) hc).trans ?_
    simp only [lcdDelivered, hr hc]
    rfl

/-- BusRead with a clear draw (R123): one POLL, then the read; the byte is kept. -/
theorem runSeq_busRead {s : State} (r : Rs) (h : busyFlag (s.drawAt 0) = false) :
    ∃ t u, (∀ rest, runSeq none (busReadOps s.params.busMode r ++ rest) s = runSeq none rest t) ∧
      Moves 1 [.poll (s.answer .C)] s u ∧
      (s.params.controller = .draws → u.lcd = s.lcd) ∧
      (s.params.controller = .reference → u.lcd = finishPending s.lcd) ∧
      Moves 2 [.poll (s.answer .C), .rd r (u.answer r)] s t ∧ t.acc = u.answer r ∧ t.lcd = u.lcdAnswered r := by
  obtain ⟨m, -, -, hd, hr⟩ := pollState_moves (s := { s with pollcnt := 0 }) h
  refine ⟨micro (.rd r) (readState s.params.busMode r (pollState { s with pollcnt := 0 })),
    pollState { s with pollcnt := 0 }, fun rest => ?_, ⟨m.trace, m.regs, m.reql, m.around, m.draws, m.reads, m.pins⟩,
    hd, hr, ?_, ?_, rfl⟩
  · rw [busReadOps, List.append_assoc, List.append_assoc, runSeq_pollBusy h,
      runSeq_straight (pollTest_notMem_rawRead _ _), List.singleton_append, runSeq_plain (by simp), runMicros_rawRead]
  · refine ⟨?_, m.regs, m.reql, m.around, fun j => ?_, congrArg (· + 1) m.reads, ⟨rfl, rfl, rfl, rfl⟩⟩
    · show (pollState { s with pollcnt := 0 }).trace ++ [.rd r (readState _ _ _).rxByte] = _
      rw [m.trace, readState_rxByte, List.append_assoc]
      rfl
    · exact (State.drawAt_drawn _ j).trans (m.draws (j + 1))
  · exact readState_rxByte _ _ _

/-! ### The execution cycle -/

/-- The ready, initialised block runs the request's sequence and its commit (R120). -/
theorem request_accepting {s : State} (h : s.Accepting) (i : Instr) (ops : List MicroOp) :
    request i ops s = runSeq none (ops ++ [.commit]) { s with reql := requestBits i } := by
  obtain ⟨h1, h2, h3⟩ := h
  simp [request, startRequest, ready, h1, h2, h3]

theorem Moves.params {k : Nat} {evs : List Event} {s t : State} (m : Moves k evs s t) : t.params = s.params :=
  m.around.1

/-- The draws that are still clear after `k` of them have been taken. -/
theorem Moves.quiet {k n : Nat} {evs : List Event} {s t : State} (m : Moves k evs s t) (h : s.Quiet (n + k)) :
    t.Quiet n := by
  intro j hj
  rw [m.draws]
  exact h _ (by omega)

/-- A busy check with a clear draw answers clear; it is the `k`-th answer from where `k` answers back. -/
theorem Moves.clearAnswer {k : Nat} {evs : List Event} {s t : State} (m : Moves k evs s t)
    (h : busyFlag (t.drawAt 0) = false) : s.ClearAnswer k (t.answer .C) := by
  refine ⟨busyFlag_answer h, fun hc => ?_⟩
  rw [State.answer, m.params, hc]
  simpa using m.draws 0

theorem clearAnswer_zero {s : State} (h : busyFlag (s.drawAt 0) = false) : s.ClearAnswer 0 (s.answer .C) :=
  ⟨busyFlag_answer h, fun hc => by rw [State.answer, hc]⟩

/-- Committing request `i` after its sequence ends it: its updates, with `STATUS.ERR <- 0` (R31, R120). -/
theorem Moves.finished {k : Nat} {evs : List Event} {s t : State} {i : Instr}
    (hd : decode (.request (requestBits i)) = .ok i) (m : Moves k evs { s with reql := requestBits i } t) :
    Finished i evs s { commitRequest t with seq := [] } ∧
      (commitRequest t).regs = { commitOf s.params t.acc i s.regs with err := .ok } := by
  obtain ⟨h1, h2, h3, h4, -, -, -⟩ := m
  refine ⟨⟨rfl, h3, h1, h4⟩, ?_⟩
  have h5 := h4.1
  simp only at h2 h3 h5
  simp only [commitRequest, committedRegs, h2, h3, h5, hd]

/-- The commit ends the request (R31). -/
theorem runSeq_commit (s : State) : runSeq none [.commit] s = { commitRequest s with seq := [] } := by
  rw [runSeq_plain (by decide), runSeq_nil]
  rfl

end Sys2Proof.Machine
end

