-- ==== Sys2Proof/Laws/Step.lean ====
section
/-! SUPPORT. Everything a step can do, said once: the induction over a stretch of a sequence, and the cases of an
instruction and of a step. -/
namespace Sys2Proof.Machine

/-- The sequence of a request, by its own rule; a command byte has none. -/
def sequenceOf (p : Params) (cfg : DisplayConfig) (i : Instr) : List MicroOp :=
  match i with
  | .init => initOps p
  | .write r b => writeOps p r b
  | .read r => readOps p r
  | .busy => busyOps p
  | .clear => commandOps p cmdClearByte
  | .home => commandOps p cmdHomeByte
  | .entry inc => commandOps p (entryByte inc)
  | .display on => commandOps p (dispByte p.dispCb on)
  | .configure l f => commandOps p (fsByte p.busMode l f)
  | .setaddr a => commandOps p (setddByte a)
  | .line n => commandOps p (setddByte (lineBase n))
  | .feed c => feedOps p cfg c
  | .ldcur _ _ => []
  | .cmdClear => []
  | .cmdHome => []
  | .cmdEntry _ _ => []
  | .cmdDisplay _ _ _ => []
  | .cmdShift _ _ => []
  | .cmdFunctionSet _ _ _ => []
  | .cmdSetCgram _ => []
  | .cmdSetDdram _ => []

/-- The induction over the sequencer (R21), once: `P` holds of what remains and the state, `Q` of where the turn ends. -/
theorem runSeq_induction {P : List MicroOp → State → Prop} {Q : State → Prop}
    (hnil : ∀ s, P [] s → Q { s with seq := [] })
    (hpause : ∀ op rest s, P (op :: rest) s → Q { s with seq := op :: rest })
    (htime : ∀ rest s, P (.pollTest :: rest) s → busyFlag s.rxByte = true →
      Q (raiseError .busTimeout (micro .pollTest s)))
    (hback : ∀ rest s, P (.pollTest :: rest) s → busyFlag s.rxByte = true →
      Q { micro .pollTest s with seq := pollRoundOps s.params.busMode ++ rest })
    (hstep : ∀ op rest s, P (op :: rest) s → (op = .pollTest → busyFlag s.rxByte = false) → P rest (micro op s)) :
    ∀ (q : Option Nat) (ops : List MicroOp) (s : State), P ops s → Q (runSeq q ops s) := by
  intro q ops
  induction ops generalizing q with
  | nil => intro s h; rw [runSeq_nil]; exact hnil s h
  | cons op rest ih =>
    intro s h
    rw [runSeq]
    split
    · exact hpause op rest s h
    · split
      · rename_i hb
        obtain ⟨rfl, hb⟩ := hb
        split
        · exact htime rest s h hb
        · exact hback rest s h hb
      · rename_i hb
        refine ih _ _ (hstep op rest s h fun hop => ?_)
        simpa [hop] using hb

/-- What a request does when it answers a next state: nothing while the block is busy; NOT_INIT; or its sequence
and commit (R24, R120). -/
theorem exec_request_cases {i : Instr} {s t : State} (hi : i.isRequest = true) (h : exec i s = .next t) :
    (s.seq ≠ [] ∧ t = s) ∨
      (s.seq = [] ∧ s.regs.initd = false ∧ i ≠ .init ∧ t = raiseError .notInit { s with reql := requestBits i }) ∨
      (s.seq = [] ∧ (s.regs.initd = true ∨ i = .init) ∧
        t = runSeq s.quantum (sequenceOf s.params s.regs.cfg i ++ [.commit]) { s with reql := requestBits i }) := by
  have key : t = request i (sequenceOf s.params s.regs.cfg i) s := by
    cases i with
    | init =>
      simp only [exec, execInit] at h
      split at h
      · exact (Host.Outcome.next.inj h).symm
      · cases h
    | cmdClear => cases hi
    | cmdHome => cases hi
    | cmdEntry _ _ => cases hi
    | cmdDisplay _ _ _ => cases hi
    | cmdShift _ _ => cases hi
    | cmdFunctionSet _ _ _ => cases hi
    | cmdSetCgram _ => cases hi
    | cmdSetDdram _ => cases hi
    | _ => exact (Host.Outcome.next.inj h).symm
  rw [key, request]
  by_cases hs : s.seq = []
  · refine .inr ?_
    rw [if_pos (by simp [ready, hs]), startRequest]
    split
    · rename_i hn
      simp only [Bool.and_eq_true, Bool.not_eq_true', bne_iff_ne] at hn
      exact .inl ⟨hs, hn.1, hn.2, rfl⟩
    · rename_i hn
      refine .inr ⟨hs, ?_, rfl⟩
      by_cases hd : s.regs.initd = true <;> simp_all
  · exact .inl ⟨hs, by rw [if_neg (by simp [ready, hs])]⟩

/-- What a command byte does when it answers a next state: its effect on the controller, and nothing else (R60). -/
theorem exec_command_cases {i : Instr} {s t : State} (hi : i.isRequest = false) (h : exec i s = .next t) :
    t = { s with lcd := lcdCommand i s.lcd } := by
  cases i with
  | cmdClear => exact (Host.Outcome.next.inj h).symm
  | cmdHome => exact (Host.Outcome.next.inj h).symm
  | cmdEntry _ _ => exact (Host.Outcome.next.inj h).symm
  | cmdDisplay _ _ _ => exact (Host.Outcome.next.inj h).symm
  | cmdShift _ _ => exact (Host.Outcome.next.inj h).symm
  | cmdFunctionSet _ _ _ => exact (Host.Outcome.next.inj h).symm
  | cmdSetCgram _ => exact (Host.Outcome.next.inj h).symm
  | cmdSetDdram _ => exact (Host.Outcome.next.inj h).symm
  | _ => cases hi

/-- Everything one step can do: nothing but a host access, the boot step 1 or the plan's move; block reset; an ILLEGAL
word; a request; the rest of a sequence; or a change of the controller alone. -/
theorem step_cases {s t : State} (h : step s = .next t) :
    (∃ q d b, t = { s with turns := s.turns.tail, hostQ := q, hostData := d, boardUp := b }) ∨
      (nextTurn s = .blockReset ∧ t = blockReset { s with turns := s.turns.tail }) ∨
      (∃ w rest, nextTurn s = .host ∧ s.seq = [] ∧
        t = illegalRequest w { s with turns := s.turns.tail, hostQ := rest }) ∨
      (∃ i rest, nextTurn s = .host ∧ s.seq = [] ∧ i.isRequest = true ∧
        exec i { s with turns := s.turns.tail, hostQ := rest } = .next t) ∨
      (s.seq ≠ [] ∧ t = runSeq s.quantum s.seq { s with turns := s.turns.tail }) ∨
      (∃ c up, t = { s with turns := s.turns.tail, lcd := c, lcdUp := up } ∧
        ((∃ i, i.isRequest = false ∧ c = lcdCommand i { s.lcd with pending := none }) ∨
          c = anyController { s.lcd with pending := none } ∨
          (∃ b, c = lcdDataWrite b { s.lcd with pending := none }) ∨
          ∃ met, c = lcdPowerUp s.params.busMode met s.lcd)) := by
  simp only [step] at h
  cases ht : nextTurn s with
  | host =>
    simp only [ht, takeTurn, hostTurn] at h
    split at h
    · exact .inl ⟨_, _, _, (Host.Outcome.next.inj h).symm⟩
    · split at h
      · exact .inl ⟨_, _, _, (Host.Outcome.next.inj h).symm⟩
      · cases h
    · split at h
      · simp only [hostWrite] at h
        split at h
        · split at h
          · rename_i hs
            have hs : s.seq = [] := List.isEmpty_iff.1 hs
            simp only [acceptWrite] at h
            split at h
            · rename_i data _ _ _ i hd
              refine .inr (.inr (.inr (.inl ⟨i, _, rfl, hs, ?_, h⟩)))
              simp only [decodeWrite] at hd
              split at hd
              · cases hd
              · exact decodeRequest_isRequest hd
            · exact .inr (.inr (.inl ⟨_, _, rfl, hs, (Host.Outcome.next.inj h).symm⟩))
          · exact .inl ⟨_, _, _, (Host.Outcome.next.inj h).symm⟩
        · exact .inl ⟨_, _, _, (Host.Outcome.next.inj h).symm⟩
      · cases h
  | block =>
    simp only [ht, takeTurn, blockTurn] at h
    split at h
    · exact .inl ⟨_, _, _, (Host.Outcome.next.inj h).symm⟩
    · rename_i hs
      refine .inr (.inr (.inr (.inr (.inl ⟨?_, (Host.Outcome.next.inj h).symm⟩))))
      simpa [ready] using hs
  | controller =>
    simp only [ht, takeTurn, controllerTurn] at h
    split at h
    · exact .inl ⟨_, _, _, (Host.Outcome.next.inj h).symm⟩
    · refine .inr (.inr (.inr (.inr (.inr ?_))))
      split at h
      · exact ⟨_, _, (Host.Outcome.next.inj h).symm, .inr (.inl rfl)⟩
      · simp only [executeHeldFrame] at h
        split at h
        · simp only [executeCommandByte] at h
          split at h
          · rename_i hd
            have hi := decodeCommand_isCommand hd
            exact ⟨_, _, exec_command_cases hi h, .inl ⟨_, hi, rfl⟩⟩
          · exact ⟨_, _, (Host.Outcome.next.inj h).symm, .inr (.inl rfl)⟩
        · exact ⟨_, _, (Host.Outcome.next.inj h).symm, .inr (.inr (.inl ⟨_, rfl⟩))⟩
  | blockReset =>
    simp only [ht, takeTurn] at h
    exact .inr (.inl ⟨rfl, (Host.Outcome.next.inj h).symm⟩)
  | boardBringUp =>
    simp only [ht, takeTurn] at h
    exact .inl ⟨_, _, _, (Host.Outcome.next.inj h).symm⟩
  | controllerPowerUp met =>
    simp only [ht, takeTurn] at h
    exact .inr (.inr (.inr (.inr (.inr ⟨_, _, (Host.Outcome.next.inj h).symm, .inr (.inr (.inr ⟨met, rfl⟩))⟩))))

end Sys2Proof.Machine
end

