-- ==== Sys2Proof/Tests/Slice0.lean ====
section
/-! SUPPORT. The model's own tests: ill-formed terms, the decoder on words written out from the encoding rules, the
vectors of spec/95_test_vectors.md (named in each test), and a witness for the hypotheses of each statement. -/
namespace Sys2Proof.Tests
open Sys2Proof Sys2Proof.Machine

/-! ### Well-formedness -/

/-- R157: "There is no line 3". -/
theorem test_line_operand_above : ¬ WellFormed (.line 3) := by decide
/-- R157: n is 1 or 2. -/
theorem test_line_operand_below : ¬ WellFormed (.line 0) := by decide
theorem test_line_operands : WellFormed (.line 1) ∧ WellFormed (.line 2) := by decide

/-! ### Decoding: words from R94, R97, R107 and the examples of the requests' rules -/

/-- R130: `0x2000 | (rs << 8) | b`; R131, R132, R200: their example words. -/
theorem test_decode_bus_transport :
    decode (.request 0b0010_00_0_1_01000001) = .ok (.write .D 0x41) ∧
    decode (.request 0b0010_00_0_0_00000001) = .ok (.write .C 0x01) ∧
    decode (.request 0b0011_00_0_0_00000000) = .ok (.read .C) ∧
    decode (.request 0b0011_00_0_1_00000000) = .ok (.read .D) ∧
    decode (.request 0b0100_00_0_0_00000000) = .ok .busy := by decide

/-- R151 to R157: their example words. -/
theorem test_decode_command_protocol :
    decode (.request 0b0101_00_0_0_00000000) = .ok .clear ∧
    decode (.request 0b0110_00_0_0_00000000) = .ok .home ∧
    decode (.request 0b0111_00_0_1_00000000) = .ok (.entry 1) ∧
    decode (.request 0b1000_00_0_1_00000000) = .ok (.display 1) ∧
    decode (.request 0b1001_00_0_1_00000000) = .ok (.configure 1 0) ∧
    decode (.request 0b1001_00_1_0_00000000) = .ok (.configure 0 1) ∧
    decode (.request 0b1010_00_0_0_01000101) = .ok (.setaddr 0x45) ∧
    decode (.request 0b1011_00_0_0_00000000) = .ok (.line 1) ∧
    decode (.request 0b1011_00_0_1_00000000) = .ok (.line 2) := by decide

/-- R170, R200, R202: their example words. -/
theorem test_decode_stream_and_control :
    decode (.request 0b1100_00_0_0_01101000) = .ok (.feed 0x68) ∧
    decode (.request 0b0001_00_0_0_00000000) = .ok .init ∧
    decode (.request 0b1101_00_0_1_00001111) = .ok (.ldcur 1 0x0F) := by decide

/-- R97: each class of command byte, its bits written out. -/
theorem test_decode_command_bytes :
    decode (.command 0b00000001) = .ok .cmdClear ∧
    decode (.command 0b00000010) = .ok .cmdHome ∧
    decode (.command 0b00000011) = .ok .cmdHome ∧
    decode (.command 0b00000110) = .ok (.cmdEntry 1 0) ∧
    decode (.command 0b00001100) = .ok (.cmdDisplay 1 0 0) ∧
    decode (.command 0b00010000) = .ok (.cmdShift 0 0) ∧
    decode (.command 0b00010100) = .ok (.cmdShift 0 1) ∧
    decode (.command 0b00111000) = .ok (.cmdFunctionSet 1 1 0) ∧
    decode (.command 0b01000101) = .ok (.cmdSetCgram 5) ∧
    decode (.command 0b11000101) = .ok (.cmdSetDdram 0x45) ∧
    decode (.command 0b00000000) = .error .noCommand := by decide

/-- Z1 to Z6, Z8, Z10: every one is rejected. -/
theorem test_decode_rejects :
    ([0x0000#32, 0x0C00#32, 0xE000#32, 0xF123#32, 0x5400#32, 0x15000#32, 0x2FFF#32, 0xDFFF#32].all fun w =>
      (decodeWrite w).toOption.isNone) = true := by decide
/-- The bad words of WR4, RD4, BY5, EN3, DS4, CF2 and SA5. -/
theorem test_decode_rejects_protocol :
    ([0x2200#32, 0x3001#32, 0x4100#32, 0x7300#32, 0x7101#32, 0x8200#32, 0x9001#32, 0x9400#32, 0xA100#32].all fun w =>
      (decodeWrite w).toOption.isNone) = true := by decide
/-- The bad words of LN4, F-X1, IN5 and LC2. -/
theorem test_decode_rejects_stream :
    ([0xB001#32, 0xB200#32, 0xC100#32, 0xC20D#32, 0xC468#32, 0x1001#32, 0xD200#32].all fun w =>
      (decodeWrite w).toOption.isNone) = true := by decide

/-- Z7, Z9, Z11: the legal words beside them. -/
theorem test_decode_write_accepts :
    decodeWrite 0x5000 = .ok .clear ∧ decodeWrite 0x21FF = .ok (.write .D 0xFF) ∧
      decodeWrite 0xD1FF = .ok (.ldcur 1 0xFF) := by decide

/-- R107: the pseudo-instructions' expansions; R178: the wrap policy swaps above column 15. -/
theorem test_pseudo_instructions :
    puts [0x68, 0x69, 0x00, 0x6A] = [.feed 0x68, .feed 0x69] ∧ newline = [.feed 0x0D, .feed 0x0A] ∧
      wrapCheck 0x10 0x010 = [.line 2] ∧ wrapCheck 0x10 0x110 = [.line 1] ∧ wrapCheck 0x0F 0x00F = [] := by decide

/-! ### States of the vectors -/

/-- The pins after an INIT (IN1). -/
def idlePins : Pins := { Pins.reset with ctrlOe := true, dbOe := true }

/-- The reference controller in Σ (95, section 0). -/
def sigmaLcd : Lcd := { Lcd.powerOn with n := 1, dispOn := 1 }

/-- Σ (95, section 0), every busy check finding the controller ready at once (R77). -/
def sigma : State :=
  { State.resetWith { Params.default with controller := .reference } with
    regs := { initd := true, err := .ok, resp := 0, cfg := ⟨1, 0⟩, cur := ⟨0, 0⟩ }
    pins := idlePins
    lcd := sigmaLcd
    answers := List.replicate 8 0 }

/-- Σ with another controller and mirror. -/
def sigmaWith (c : Lcd) (u : CursorState) : State := { sigma with lcd := c, regs := { sigma.regs with cur := u } }

/-- Σ with a controller whose answers are given. -/
def sigmaDraws (vs : List Byte) : State :=
  { sigma with params := { sigma.params with controller := .draws }, answers := vs }

/-- What a vector gives of the block: the trace, and `STATUS`, `RESP`, `CFG` and `CUR` as the host reads them. -/
structure Seen where
  trace : List Event
  status : Nat
  resp : Nat
  cfg : Nat
  cur : Nat
deriving DecidableEq, Repr

def seen (s : State) : Seen :=
  ⟨s.trace, (statusWord s).toNat, (respWord s).toNat, (cfgWord s).toNat, (curWord s).toNat⟩

/-- The state after one step on `w` placed as the next instruction; where the step stops, the state before it. -/
def after (s : State) (nbits w : Nat) : State :=
  match step (s.withFetchWord nbits w) with
  | .next t => t
  | .fault _ => s
  | .refused _ => s

/-- The state after `k` more turns. -/
def turnsOn (k : Nat) (s : State) : State :=
  match Sys2Proof.core.run k s with
  | .next t => t
  | .fault _ => s
  | .refused _ => s

/-! ### Bus Transport -/

/-- WR1, and the controller's later turn stores the glyph (R74). -/
theorem test_write_data :
    seen (after sigma 16 0x2141) = ⟨[.poll 0x00, .wr .D 0x41], 0x103, 0, 1, 0⟩ ∧
      (turnsOn 1 (after sigma 16 0x2141)).lcd.ddram = [(0, 0x41)] ∧
      (turnsOn 1 (after sigma 16 0x2141)).lcd.ac = 1 := by decide
/-- WR2: a raw clear leaves the mirror. -/
theorem test_write_clear_leaves_mirror :
    seen (after (sigmaWith { sigmaLcd with ac := 5 } ⟨1, 5⟩) 16 0x2001) =
      ⟨[.poll 0x05, .wr .C 0x01], 0x103, 0, 1, 0x105⟩ := by decide
/-- WR5: two busy answers, then the write. -/
theorem test_write_waits :
    seen (turnsOn 2 (after (sigmaDraws [0x80, 0x80, 0x00]) 16 0x2141)) =
      ⟨[.poll 0x80, .poll 0x80, .poll 0x00, .wr .D 0x41], 0x103, 0, 1, 0⟩ := by decide
/-- RD2: the cell at AC, and AC moves on. -/
theorem test_read_data :
    seen (after (sigmaWith { sigmaLcd with ddram := [(0, 0x41)], rdok := true } ⟨0, 0⟩) 16 0x3100) =
        ⟨[.poll 0x00, .rd .D 0x41], 0x103, 0x41, 1, 0⟩ ∧
      (after (sigmaWith { sigmaLcd with ddram := [(0, 0x41)], rdok := true } ⟨0, 0⟩) 16 0x3100).lcd.ac = 1 := by decide
/-- RD5: the second busy answer times out; RESP is unchanged and there is no RD. -/
theorem test_read_times_out :
    seen (turnsOn 1 (after { sigmaDraws [0x80, 0x80] with
      params := { sigma.params with controller := .draws, busyTimeout := some 2 } } 16 0x3000)) =
      ⟨[.poll 0x80, .poll 0x80], 0x133, 0, 1, 0⟩ := by decide
/-- BY1, BY2, BY3. -/
theorem test_busy_answers :
    seen (after (sigmaDraws [0x80]) 16 0x4000) = ⟨[.poll 0x80], 0x103, 1, 1, 0⟩ ∧
      seen (after (sigmaDraws [0x12]) 16 0x4000) = ⟨[.poll 0x12], 0x103, 0, 1, 0⟩ ∧
      seen (after (sigmaDraws [0xFF]) 16 0x4000) = ⟨[.poll 0xFF], 0x103, 1, 1, 0⟩ := by decide
/-- R76, R77: the reference controller, holding a frame, answers `{1, AC}`, and then `{0, AC}` of the frame's effect. -/
theorem test_busy_reference :
    let s := sigmaWith { sigmaLcd with ac := 5, pending := some ⟨.D, 0x41⟩ } ⟨0, 5⟩
    seen (after { s with answers := [0xFF] } 16 0x4000) = ⟨[.poll 0x85], 0x103, 1, 1, 5⟩ ∧
      seen (after { s with answers := [0x00] } 16 0x4000) = ⟨[.poll 0x06], 0x103, 0, 1, 5⟩ := by decide
/-- BY4: BUSY never times out. -/
theorem test_busy_never_times_out :
    seen (after { sigmaDraws [0x80] with
      params := { sigma.params with controller := .draws, busyTimeout := some 1 } } 16 0x4000) =
      ⟨[.poll 0x80], 0x103, 1, 1, 0⟩ := by decide

/-! ### Command/Data Protocol -/

/-- CL1. -/
theorem test_clear :
    seen (after (sigmaWith { sigmaLcd with ddram := [(0, 0x68)], ac := 5 } ⟨1, 5⟩) 16 0x5000) =
      ⟨[.poll 0x05, .wr .C 0x01], 0x103, 0, 1, 0⟩ := by decide
/-- HM1. -/
theorem test_home :
    seen (after (sigmaWith { sigmaLcd with ddram := [(0, 0x68)], ac := 0x45 } ⟨1, 5⟩) 16 0x6000) =
      ⟨[.poll 0x45, .wr .C 0x02], 0x103, 0, 1, 0⟩ := by decide
/-- EN1, EN2. -/
theorem test_entry :
    seen (after sigma 16 0x7100) = ⟨[.poll 0x00, .wr .C 0x06], 0x103, 0, 1, 0⟩ ∧
      seen (after sigma 16 0x7000) = ⟨[.poll 0x00, .wr .C 0x04], 0x103, 0, 1, 0⟩ := by decide
/-- DS1, DS3. -/
theorem test_display :
    seen (after sigma 16 0x8100) = ⟨[.poll 0x00, .wr .C 0x0C], 0x103, 0, 1, 0⟩ ∧
      seen (after { sigma with params := { sigma.params with dispCb := 0b11 } } 16 0x8000) =
        ⟨[.poll 0x00, .wr .C 0x0B], 0x103, 0, 1, 0⟩ := by decide
/-- T1, SPLIT8. -/
theorem test_configure_split8 :
    seen (after sigma 16 0x9000) = ⟨[.poll 0x00, .wr .C 0x30], 0x103, 0, 0, 0⟩ ∧
      seen (after sigma 16 0x9100) = ⟨[.poll 0x00, .wr .C 0x38], 0x103, 0, 1, 0⟩ ∧
      seen (after sigma 16 0x9200) = ⟨[.poll 0x00, .wr .C 0x34], 0x103, 0, 2, 0⟩ ∧
      seen (after sigma 16 0x9300) = ⟨[.poll 0x00, .wr .C 0x3C], 0x103, 0, 3, 0⟩ := by decide
/-- T1, NIBBLE4. -/
theorem test_configure_nibble4 :
    seen (after { sigma with params := { sigma.params with busMode := .nibble4 } } 16 0x9200) =
        ⟨[.poll 0x00, .wr .C 0x24], 0x103, 0, 6, 0⟩ ∧
      seen (after { sigma with params := { sigma.params with busMode := .nibble4 } } 16 0x9100) =
        ⟨[.poll 0x00, .wr .C 0x28], 0x103, 0, 5, 0⟩ := by decide
/-- SA2, SA4: bit 7 of the operand is absorbed; CUR is unchanged. -/
theorem test_setaddr :
    seen (after sigma 16 0xA040) = ⟨[.poll 0x00, .wr .C 0xC0], 0x103, 0, 1, 0⟩ ∧
      (turnsOn 1 (after sigma 16 0xA0C5)).lcd.ac = 0x45 := by decide
/-- LN1, LN2. -/
theorem test_line :
    seen (after (sigmaWith { sigmaLcd with ac := 5 } ⟨1, 5⟩) 16 0xB000) =
        ⟨[.poll 0x05, .wr .C 0x80], 0x103, 0, 1, 0⟩ ∧
      seen (after (sigmaWith sigmaLcd ⟨0, 0x10⟩) 16 0xB100) =
        ⟨[.poll 0x00, .wr .C 0xC0], 0x103, 0, 1, 0x100⟩ := by decide
/-- TO2: the third answer is not busy, so the count is not reached. -/
theorem test_clear_just_in_time :
    seen (turnsOn 2 (after { sigmaDraws [0x80, 0x80, 0x00] with
      params := { sigma.params with controller := .draws, busyTimeout := some 3 } } 16 0x5000)) =
      ⟨[.poll 0x80, .poll 0x80, .poll 0x00, .wr .C 0x01], 0x103, 0, 1, 0⟩ := by decide

/-! ### Text Stream State Machine -/

/-- F-BS1. -/
theorem test_feed_backspace :
    seen (after (sigmaWith { sigmaLcd with ddram := [(0, 0x61), (1, 0x62), (2, 0x63)], ac := 3 } ⟨0, 3⟩) 16 0xC07F) =
      ⟨[.poll 0x03, .wr .C 0x10, .poll 0x02, .wr .C 0x06, .poll 0x02, .wr .D 0x20, .poll 0x03, .wr .C 0x10],
        0x103, 2, 1, 2⟩ := by decide
/-- F-BS2: at column 0 the four writes are made, COL stays 0, and the controller's cursor ends at 0x67. -/
theorem test_feed_backspace_at_zero :
    seen (after sigma 16 0xC07F) =
        ⟨[.poll 0x00, .wr .C 0x10, .poll 0x67, .wr .C 0x06, .poll 0x67, .wr .D 0x20, .poll 0x00, .wr .C 0x10],
          0x103, 0, 1, 0⟩ ∧
      (turnsOn 1 (after sigma 16 0xC07F)).lcd.ac = 0x67 := by decide
/-- F-CR2, F-CR4: the boundary of the comparison. -/
theorem test_feed_cr_boundary :
    seen (after (sigmaWith { sigmaLcd with ac := 0x40 } ⟨1, 0⟩) 16 0xC00D) =
        ⟨[.poll 0x40, .wr .C 0x3C, .poll 0x40, .rd .C 0x40, .poll 0x40, .wr .C 0x80], 0x103, 0, 3, 0⟩ ∧
      seen (after (sigmaWith { sigmaLcd with ac := 0x3F } ⟨0, 0⟩) 16 0xC00D) =
        ⟨[.poll 0x3F, .wr .C 0x3C, .poll 0x3F, .rd .C 0x3F, .poll 0x3F, .wr .C 0xC0], 0x103, 0, 3, 0x100⟩ := by decide
/-- F-CR8: NIBBLE4; F-CR7: CR_CFG = CURRENT. -/
theorem test_feed_cr_parameters :
    seen (after { sigmaWith { sigmaLcd with ac := 2 } ⟨0, 2⟩ with
        params := { sigma.params with busMode := .nibble4 } } 16 0xC00D) =
        ⟨[.poll 0x02, .wr .C 0x2C, .poll 0x02, .rd .C 0x02, .poll 0x02, .wr .C 0xC0], 0x103, 0, 7, 0x100⟩ ∧
      seen (after { sigmaWith { sigmaLcd with ac := 2 } ⟨0, 2⟩ with
        params := { sigma.params with crCfg := .current }
        regs := { sigma.regs with cfg := ⟨0, 0⟩ } } 16 0xC00D) =
        ⟨[.poll 0x02, .wr .C 0x30, .poll 0x02, .rd .C 0x02, .poll 0x02, .wr .C 0xC0], 0x103, 0, 0, 0x100⟩ := by decide
/-- F-LF1. -/
theorem test_feed_lf : seen (after (sigmaWith sigmaLcd ⟨0, 5⟩) 16 0xC00A) = ⟨[], 0x103, 5, 1, 5⟩ := by decide
/-- F-P3, F-P5, F-P6: ASCII BS is a glyph; 255 wraps to 0; POSTINC_BUG keeps the column. -/
theorem test_feed_printable :
    seen (after sigma 16 0xC008) = ⟨[.poll 0x00, .wr .C 0x06, .poll 0x00, .wr .D 0x08], 0x103, 1, 1, 1⟩ ∧
      seen (after (sigmaWith sigmaLcd ⟨0, 0xFF⟩) 16 0xC078) =
        ⟨[.poll 0x00, .wr .C 0x06, .poll 0x00, .wr .D 0x78], 0x103, 0, 1, 0⟩ ∧
      seen (after { sigma with params := { sigma.params with postincBug := true } } 16 0xC068) =
        ⟨[.poll 0x00, .wr .C 0x06, .poll 0x00, .wr .D 0x68], 0x103, 0, 1, 0⟩ := by decide
/-- F-P7: the second poll times out; CUR and RESP are unchanged and the entry-mode write stands. -/
theorem test_feed_times_out :
    seen (after { sigmaDraws [0x00, 0x80] with
      params := { sigma.params with controller := .draws, busyTimeout := some 1 } } 16 0xC068) =
      ⟨[.poll 0x00, .wr .C 0x06, .poll 0x80], 0x133, 0, 1, 0⟩ := by decide

/-! ### Block control, errors and reset -/

/-- The block after reset, the reference controller just powered up (IN1). -/
def powered : State :=
  { State.resetWith { Params.default with controller := .reference } with answers := List.replicate 8 0 }

/-- IN1. -/
theorem test_init :
    seen (after powered 16 0x1000) = ⟨[.poll 0x00, .wr .C 0x30], 0x103, 0, 0, 0⟩ ∧
      (after powered 16 0x1000).pins.ctrlOe = true := by decide
/-- IN2, IN4: NIBBLE4; no commands. -/
theorem test_init_parameters :
    seen (after { powered with params := { Params.forMode .nibble4 with controller := .reference } } 16 0x1000) =
        ⟨[.poll 0x00, .wr .C 0x20], 0x103, 0, 4, 0⟩ ∧
      seen (after { powered with params := { powered.params with initCmds := [] } } 16 0x1000) =
        ⟨[], 0x103, 0, 0, 0⟩ := by decide
/-- IN6: INIT's poll times out, the pins stay driven. -/
theorem test_init_times_out :
    seen (after { powered with
      params := { Params.default with busyTimeout := some 1 }, answers := [0x80] } 16 0x1000) =
      ⟨[.poll 0x80], 0x131, 0, 0, 0⟩ := by decide
/-- LC1. -/
theorem test_ldcur : seen (after sigma 16 0xD10F) = ⟨[], 0x103, 0, 1, 0x10F⟩ := by decide
/-- WR4, Z6, IN5, NI3: ILLEGAL, also before INIT. -/
theorem test_illegal :
    seen (after sigma 16 0x2200) = ⟨[], 0x113, 0, 1, 0⟩ ∧ seen (after sigma 32 0x15000) = ⟨[], 0x113, 0, 1, 0⟩ ∧
      seen (after powered 16 0x1001) = ⟨[], 0x011, 0, 0, 0⟩ ∧ seen (after powered 16 0xE000) = ⟨[], 0x011, 0, 0, 0⟩ := by
  decide
/-- NI1, NI2. -/
theorem test_not_init :
    seen (after powered 16 0x5000) = ⟨[], 0x021, 0, 0, 0⟩ ∧ seen (after powered 16 0xC068) = ⟨[], 0x021, 0, 0, 0⟩ := by
  decide
/-- RS1, on a request in progress. -/
theorem test_block_reset :
    seen (turnsOn 1 { after (sigmaDraws [0x80]) 16 0x5000 with turns := [.blockReset] }) =
      ⟨[.poll 0x80], 0x001, 0, 0, 0⟩ := by decide
/-- RS2, RS3, RS4: REQ and a reserved offset read 0; a write to STATUS is ignored. -/
theorem test_window :
    (turnsOn 1 { State.reset with hostQ := [.read 0x00 .word], turns := [.host] }).hostData = 0 ∧
      (turnsOn 1 { State.reset with hostQ := [.read 0x20 .word], turns := [.host] }).hostData = 0 ∧
      (turnsOn 2 { State.reset with
        hostQ := [.write 0x04 .word 0xFFFFFFFF, .read 0x04 .word], turns := [.host, .host] }).hostData = 1 := by decide

/-! ### Pins -/

/-- PW1: the pins at the end, and STATUS.DBOE 0 inside the poll. -/
theorem test_pins_split8 :
    (after (sigmaDraws [0x00]) 16 0x2141).pins =
        { idlePins with rs := true, dbLoOut := 0x1, dbHiOut := 0x4, dbLoIn := 0, dbHiIn := 0 } ∧
      (seen (after { sigmaDraws [0x00] with quantum := some 6 } 16 0x2141)).status = 0x002 := by decide
/-- PW2: the low nibble last on DB_HI; DB_LO_OUT unchanged. -/
theorem test_pins_nibble4 :
    (after { sigmaDraws [0x00] with params := Params.forMode .nibble4 } 16 0x2141).pins =
      { idlePins with rs := true, dbLoOut := 0, dbHiOut := 0x1 } := by decide
/-- PR1, PR2: the byte of the two segments, or of the two pulses. -/
theorem test_pins_read :
    (seen (after (sigmaDraws [0x25]) 16 0x4000)).trace = [.poll 0x25] ∧
      (after (sigmaDraws [0x25]) 16 0x4000).pins.dbLoIn = 0x5 ∧
      (after (sigmaDraws [0x25]) 16 0x4000).pins.dbHiIn = 0x2 ∧
      (seen (after { sigmaDraws [0x25] with params := Params.forMode .nibble4 } 16 0x4000)).trace = [.poll 0x25] := by
  decide
/-- PS1. -/
theorem test_split_join :
    split 0xA7 = (0x7, 0xA) ∧ join 0x7 0xA = 0xA7 ∧ split 0x00 = (0, 0) ∧ split 0xFF = (0xF, 0xF) := by decide

/-! ### The controller's commands (R66 to R73) -/

/-- R66 and R67 from a written display. -/
theorem test_controller_clear_home :
    (after (sigmaWith { sigmaLcd with ddram := [(0, 0x68)], ac := 5, incr := 0, window := 3, rdok := true } ⟨0, 0⟩) 8 0x01).lcd =
        { sigmaLcd with ddram := [], ac := 0, incr := 1, window := 0, rdok := false } ∧
      (after (sigmaWith { sigmaLcd with ddram := [(0, 0x68)], ac := 5, incr := 0, window := 3, rdok := true } ⟨0, 0⟩) 8 0x03).lcd =
        { sigmaLcd with ddram := [(0, 0x68)], ac := 0, incr := 0, window := 0, rdok := false } := by decide
/-- R68, R69, R71, R73: the bits of each byte. -/
theorem test_controller_modes :
    (after sigma 8 0x05).lcd = { sigmaLcd with incr := 0, shift := 1 } ∧
      (after sigma 8 0x0B).lcd = { sigmaLcd with dispOn := 0, cursorOn := 1, blinkOn := 1 } ∧
      (after sigma 8 0x24).lcd = { sigmaLcd with dl := 0, n := 0, f := 1 } ∧
      (after sigma 8 0xC5).lcd = { sigmaLcd with ac := 0x45, rdok := true } := by decide
/-- R64, R70: 0x10 from address 0x40 goes to 0x27, 0x14 from 0x67 to 0x00; in one line, 0x14 from 0x4F to 0x00. -/
theorem test_controller_shift :
    (after (sigmaWith { sigmaLcd with ac := 0x40 } ⟨0, 0⟩) 8 0x10).lcd.ac = 0x27 ∧
      (after (sigmaWith { sigmaLcd with ac := 0x67 } ⟨0, 0⟩) 8 0x14).lcd.ac = 0x00 ∧
      (after (sigmaWith { sigmaLcd with ac := 0x4F, n := 0 } ⟨0, 0⟩) 8 0x14).lcd.ac = 0x00 ∧
      (after sigma 8 0x1C).lcd.ac = 0x00 := by decide
/-- R72, I16: the byte passes through the block and refuses the reference model, not the run. -/
theorem test_controller_cgram :
    seen (after sigma 16 0x2045) = ⟨[.poll 0x00, .wr .C 0x45], 0x103, 0, 1, 0⟩ ∧
      (after sigma 16 0x2045).lcd.offModel = true ∧ (after sigma 16 0x2085).lcd.offModel = false ∧
      (after sigma 16 0x2145).lcd.offModel = false ∧ (after sigma 8 0x45).lcd.offModel = true := by decide
/-- R78, R242, R254: the controller's power-up, and DL in each bus mode. -/
theorem test_controller_power_up :
    (turnsOn 1 { sigma with turns := [.controllerPowerUp true] }).lcd = Lcd.powerOn ∧
      (State.resetWith (Params.forMode .nibble4)).lcd = { Lcd.powerOn with dl := 0 } := by decide

/-! ### Witnesses: a state and operands that meet the hypotheses of each statement, for each clause -/

/-- An outcome is a next state. -/
def isNext (o : Host.Outcome State Fault Refusal) : Bool :=
  match o with
  | .next _ => true
  | .fault _ => false
  | .refused _ => false

/-- A block whose busy check was answered busy: CLEAR waits. -/
def waiting : State := after (sigmaDraws [0x80, 0x80]) 16 0x5000

theorem witness_DecodeOfEncodeIsIdentity : WellFormed (.line 2) ∧ WellFormed (.ldcur 1 0xFF) := by decide
theorem witness_LegalRequestWordHasOneMeaning :
    decode (.request 0xB100) = .ok (.line 2) ∧ decode (.request 0xD1FF) = .ok (.ldcur 1 0xFF) := by decide
theorem witness_IllegalExactlyAsRuled :
    decodeWrite 0x9300 = .ok (.configure 1 1) ∧ decodeWrite 0x9301 = .error .mustBeZero ∧
      decodeWrite 0xE000 = .error .reservedOpc ∧ decodeWrite 0x19300 = .error .upperBits := by decide
theorem witness_StepRunsTheDecodedInstruction_request :
    let s := { sigma with hostQ := [.write 0 .word 0xC00A] }
    nextTurn s = .host ∧ s.seq = [] ∧ s.hostQ = .write 0 .word 0xC00A :: [] ∧
      decodeWrite 0xC00A = .ok (.feed 0x0A) := by decide
theorem witness_StepRunsTheDecodedInstruction_command :
    let s := { sigma with lcd := { sigmaLcd with pending := some ⟨.C, 0x01⟩ } }
    nextTurn s = .controller ∧ s.lcd.offModel = false ∧ s.lcd.pending = some { rs := .C, payload := 0x01 } ∧
      decode (.command 0x01) = .ok .cmdClear := by decide
theorem witness_FinishingAFrameExecutesItsInstruction :
    let s := { sigma with lcd := { sigmaLcd with pending := some ⟨.C, 0x06⟩ } }
    nextTurn s = .controller ∧ s.params.controller = .reference ∧ busyFlag (s.drawAt 0) = false ∧
      s.lcd.pending = some ⟨.C, 0x06⟩ ∧ s.lcd.offModel = false ∧ decode (.command 0x06) = .ok (.cmdEntry 1 0) := by decide
theorem witness_PlacedInstructionRunsNext :
    decodeTableWord 16 0x1000 = some .init ∧ decodeTableWord 8 0x01 = some .cmdClear := by decide
theorem witness_WriteToReqIsHeldWhileBusy :
    let s := { waiting with hostQ := [.write 0 .word 0x6000], turns := [.host] }
    nextTurn s = .host ∧ s.seq ≠ [] ∧ s.hostQ = .write 0 .word 0x6000 :: [] := by decide
theorem witness_IllegalWordOnlyReports :
    let s := { sigma with hostQ := [.write 0 .word 0x15000] }
    nextTurn s = .host ∧ s.seq = [] ∧ s.hostQ = .write 0 .word 0x15000 :: [] ∧
      decodeWrite 0x15000 = .error .upperBits := by decide
theorem witness_RequestBeforeInitOnlyReports :
    State.reset.seq = [] ∧ State.reset.regs.initd = false ∧ (Instr.feed 0x68).isRequest = true ∧
      Instr.feed 0x68 ≠ .init := by decide
theorem witness_HostReadReturnsTheRegister :
    ∀ o ∈ [0x00#8, 0x04#8, 0x08#8, 0x0C#8, 0x10#8, 0x14#8, 0xFC#8],
      let s := { waiting with hostQ := [.read o .word], turns := [.host] }
      nextTurn s = .host ∧ s.hostQ = .read o .word :: [] ∧ o.toNat % 4 = 0 := by decide
theorem witness_OtherHostAccessesAreIgnoredOrRefused_write :
    let s := { State.reset with hostQ := [.write 0x04 .word 0xFFFFFFFF] }
    nextTurn s = .host ∧ s.hostQ = .write 0x04 .word 0xFFFFFFFF :: [] ∧
      (0x04 : Byte).toNat % 4 = 0 ∧ (0x04 : Byte) ≠ 0 := by decide
theorem witness_OtherHostAccessesAreIgnoredOrRefused_width :
    let s := { State.reset with hostQ := [.write 0x01 .word 0x5000] }
    let u := { State.reset with hostQ := [.read 0x04 .half] }
    nextTurn s = .host ∧ (0x01 : Byte).toNat % 4 ≠ 0 ∧
      s.hostQ = .write 0x01 .word 0x5000 :: [] ∧
      nextTurn u = .host ∧ Width.half ≠ .word ∧ u.hostQ = .read 0x04 .half :: [] := by decide
/-- Σ accepts requests and its next answers are clear: the hypotheses of the statements about one request, for either
controller. -/
theorem witness_accepting :
    sigma.Accepting ∧ sigma.Quiet 4 ∧ busyFlag (sigma.drawAt 3) = false ∧ sigma.params.controller = .reference ∧
      (sigmaDraws [0, 0, 0x80, 0]).Accepting ∧ (sigmaDraws [0, 0, 0x80, 0]).Quiet 2 ∧
      busyFlag ((sigmaDraws [0, 0, 0x80, 0]).drawAt 3) = false ∧ (sigmaDraws [0]).params.controller = .draws := by decide
theorem witness_WriteSendsOneFrame : sigma.Accepting ∧ sigma.Quiet 1 := by decide
theorem witness_ReadReturnsTheAnswer :
    sigma.Accepting ∧ sigma.Quiet 1 ∧ sigma.params.controller = .reference ∧
      (finishPending sigma.lcd).offModel = false := by decide
/-- A frame held and a draw that keeps it busy; a draw that lets it finish; and no frame held. -/
theorem witness_ReferencePollAnswersBusyAndAddress :
    let s := { sigma with lcd := { sigmaLcd with pending := some ⟨.D, 0x41⟩ }, answers := [0x80] }
    (s.params.controller = .reference ∧ s.lcd.offModel = false ∧ (s.drawAt 0).getLsbD 7 = true ∧ s.lcd.pending ≠ none) ∧
      (sigma.params.controller = .reference ∧ sigma.lcd.offModel = false ∧ sigma.lcd.pending = none) ∧
      ({ s with answers := [0x7F] }.drawAt 0).getLsbD 7 = false ∧ (finishPending s.lcd).offModel = false := by decide
theorem witness_BusyReadsOnce :
    let s := { sigma with lcd := { sigmaLcd with pending := some ⟨.D, 0x41⟩ }, answers := [0x80] }
    sigma.Accepting ∧ (sigmaDraws [0x80]).Accepting ∧ s.Accepting ∧ s.params.controller = .reference ∧
      s.lcd.offModel = false := by decide
theorem witness_WritePutsTheByteOnThePins :
    let s := { sigma with params := { sigma.params with busMode := .nibble4 } }
    sigma.Accepting ∧ sigma.Quiet 1 ∧ sigma.params.busMode = .split8 ∧ s.Accepting ∧ s.Quiet 1 ∧
      s.params.busMode = .nibble4 := by decide
theorem witness_ClearAndHomeResetTheCursor :
    sigma.Accepting ∧ sigma.Quiet 1 ∧ (Instr.clear = .clear ∧ (0x01 : Byte) = 0x01) ∧
      (Instr.home = .home ∧ (0x02 : Byte) = 0x02) := by decide
theorem witness_EntryDisplaySetaddrSendOneCommand :
    sigma.Accepting ∧ sigma.Quiet 1 ∧ (0x06 : Byte) = (if (1 : Flag) = 1 then 0x06 else 0x04) ∧
      (0x0C : Byte) = (if (1 : Flag) = 1 then 0x0C else 0x08) ||| sigma.params.dispCb.setWidth 8 ∧
      (0xC5 : Byte).toNat = 0x80 + (0xC5 : Byte).toNat % 0x80 := by decide
theorem witness_ConfigureSetsBothFields : sigma.Accepting ∧ sigma.Quiet 1 := by decide
theorem witness_LineJumpsToItsStart :
    sigma.Accepting ∧ sigma.Quiet 1 ∧ (1 = 1 ∧ (0x80 : Byte) = 0x80 ∧ (0 : Flag) = 0) ∧
      (2 = 2 ∧ (0xC0 : Byte) = 0xC0 ∧ (1 : Flag) = 1) := by decide
theorem witness_BackspaceErasesOneCell : sigma.Accepting ∧ sigma.Quiet 4 := by decide
theorem witness_CarriageReturnAlternatesLines :
    sigma.Accepting ∧ sigma.Quiet 2 ∧ busyFlag (sigma.drawAt 3) = false ∧ sigma.params.controller = .reference ∧
      (finishPending sigma.lcd).offModel = false := by decide
theorem witness_LineFeedDoesNothingOnTheBus : sigma.Accepting := by decide
theorem witness_PrintableByteAdvancesTheColumn :
    sigma.Accepting ∧ sigma.Quiet 2 ∧ (0x08 : Byte) ≠ 0x7F ∧ (0x08 : Byte) ≠ 0x0D ∧ (0x08 : Byte) ≠ 0x0A := by decide
theorem witness_InitSendsItsCommands :
    powered.seq = [] ∧ powered.quantum = none ∧ powered.boardUp = true ∧ powered.lcdUp = true ∧
      powered.Quiet powered.params.initCmds.length := by decide
theorem witness_LdcurLoadsTheMirror : sigma.Accepting := by decide
theorem witness_LaunchBeforeBringUpIsRefused :
    ({ powered with boardUp := false }).boardUp = false ∧ ({ powered with lcdUp := false }).lcdUp = false := by decide
theorem witness_BusyAnswerRepeatsTheWait :
    nextTurn waiting = .block ∧ waiting.quantum = none ∧
      waiting.seq = pollRoundOps waiting.params.busMode ++ (rawWriteOps .split8 .C ++ [.commit]) ∧
      busyFlag (waiting.answer .C) = true ∧ waiting.params.busyTimeout = none := by decide
theorem witness_BusTimeoutAbandonsTheRequest :
    let s := { waiting with params := { waiting.params with busyTimeout := some 2 }, pollcnt := 1 }
    nextTurn s = .block ∧ s.quantum = none ∧
      s.seq = pollRoundOps s.params.busMode ++ (rawWriteOps .split8 .C ++ [.commit]) ∧
      busyFlag (s.answer .C) = true ∧ s.params.busyTimeout = some 2 ∧ s.pollcnt + 1 = 2 := by decide
/-- F-P7's second check, and the first check of IN6's INIT, with either controller. -/
theorem witness_FirstBusyAnswerTimesOutAtBoundOne :
    let s := { sigmaDraws [0x00, 0x80] with
      params := { sigma.params with controller := .draws, busyTimeout := some 1 } }
    let u := { powered with
      params := { powered.params with busyTimeout := some 1 }
      lcd := { powered.lcd with pending := some ⟨.D, 0x41⟩ }
      answers := [0x80] }
    ((Instr.feed 0x68).isRequest = true ∧ s.regs.initd = true ∧ s.seq = [] ∧ s.quantum = none ∧
      1 ∈ pollDraws s.params (.feed 0x68) ∧ s.params.controller = .draws ∧
      (∀ j ∈ pollDraws s.params (.feed 0x68), j < 1 → busyFlag (s.drawAt j) = false) ∧ busyFlag (s.drawAt 1) = true) ∧
      u.boardUp = true ∧ u.lcdUp = true ∧ u.seq = [] ∧ u.quantum = none ∧ pollDraws u.params .init ≠ [] ∧
      u.params.controller = .reference ∧ busyFlag (u.answer .C) = true := by decide
/-- The wait's second answer is clear. -/
theorem witness_ClearAnswerGoesOnWithTheRequest :
    let s := { waiting with answers := [0x00] }
    nextTurn s = .block ∧ s.quantum = none ∧
      s.seq = pollRoundOps s.params.busMode ++ (rawWriteOps .split8 .C ++ [.commit]) ∧
      busyFlag (s.answer .C) = false := by decide
theorem witness_EveryRequestCompletesAfterBusyAnswers :
    let s := sigmaDraws [0x80, 0x00, 0xFF, 0x00, 0x00, 0x00, 0x00, 0x00]
    (Instr.feed 0x0D).isRequest = true ∧ WellFormed (.feed 0x0D) ∧ s.regs.initd = true ∧ s.boardUp = true ∧
      s.lcdUp = true ∧ s.seq = [] ∧ s.quantum = none ∧ s.turns = [] ∧ s.params.controller = .draws ∧
      s.params.busyTimeout = none ∧ ∀ j < 4 + s.params.initCmds.length, busyFlag (s.drawAt (3 + j)) = false := by decide
theorem witness_ClearCompletesAfterFinitelyManyBusyAnswers :
    let s := sigmaDraws [0x80, 0xFF, 0x00]
    s.Accepting ∧ s.params.controller = .draws ∧ s.params.busyTimeout = none ∧ s.turns = [] ∧
      (∀ k < 2, busyFlag (s.drawAt k) = true) ∧ busyFlag (s.drawAt 2) = false := by decide
theorem witness_BusyTimeoutBoundsEveryRequest :
    let s := { sigmaDraws [0x80, 0x80] with
      params := { sigma.params with controller := .draws, busyTimeout := some 2 } }
    s.params.controller = .draws ∧ s.params.busyTimeout = some 2 ∧ 1 ≤ 2 ∧ s.seq = [] ∧ s.quantum = none ∧
      s.turns = [] ∧ isNext (exec .clear s) = true := by decide
/-- The bounded turn stops inside the sequence. -/
theorem witness_QuantumOnlyCutsTheTurn :
    (runSeq (some 3) (busyOps sigma.params) sigma).seq ≠ [] := by decide
theorem witness_CursorShiftStepsTheAddress :
    Memory.implemented sigmaLcd.n sigmaLcd.ac.toNat = true ∧ Memory.implemented 1 0x67 = true ∧
      Memory.implemented 0 0x4F = true := by decide
theorem witness_SetCgramRefusesTheReferenceModel :
    let s := { sigma with lcd := { sigmaLcd with offModel := true } }
    s.params.controller = .reference ∧ s.lcd.offModel = true := by decide
theorem witness_RefusalOfTheReferenceModelLasts :
    let s := { sigma with lcd := { sigmaLcd with offModel := true, pending := some ⟨.D, 0x41⟩ } }
    s.lcd.offModel = true ∧ isNext (step s) = true := by decide
theorem witness_DataFrameStoresAtTheAddress :
    let s := { sigma with lcd := { sigmaLcd with pending := some ⟨.D, 0x41⟩, ac := 0x67, shift := 1 } }
    nextTurn s = .controller ∧ s.lcd.offModel = false ∧ DdramCanonical s ∧
      s.lcd.pending = some { rs := .D, payload := 0x41 } ∧ Memory.implemented s.lcd.n s.lcd.ac.toNat = true ∧
      s.lcd.shift = 1 := by decide
theorem witness_ReadDataReturnsTheCell :
    let s := { sigma with lcd := { sigmaLcd with ac := 0x40, rdok := true } }
    s.Accepting ∧ s.Quiet 1 ∧ s.params.controller = .reference ∧ s.lcd.pending = none ∧ s.lcd.offModel = false ∧
      Memory.implemented s.lcd.n s.lcd.ac.toNat = true ∧ s.lcd.rdok = true ∧ sigma.lcd.rdok = false := by decide
theorem witness_instructions_answer :
    isNext (exec .clear sigma) = true ∧ isNext (exec .cmdClear sigma) = true ∧ isNext (exec .init powered) = true := by
  decide
theorem witness_invariants :
    (PinsSafe sigma ∧ HandshakeKept sigma ∧ commitAtEnd sigma.seq = true ∧ DdramCanonical sigma ∧ PollCountKept sigma) ∧
      isNext (step sigma) = true := by decide
theorem witness_invariants_waiting :
    (PinsSafe waiting ∧ HandshakeKept waiting ∧ commitAtEnd waiting.seq = true ∧ DdramCanonical waiting ∧
      PollCountKept waiting) ∧ isNext (step waiting) = true ∧ (turnsOn 1 waiting).seq ≠ [] := by decide
/-- A carriage return that waited once completes in a block turn, which writes CUR, LINE, CFG and RESP. -/
theorem witness_StepWritesRegistersOnlyByTheNamedRequests :
    let u := after { sigmaDraws [0x80, 0, 0, 0x02, 0] with regs := { sigma.regs with resp := 7 } } 16 0xC00D
    commitAtEnd u.seq = true ∧ u.seq ≠ [] ∧ nextTurn u ≠ .blockReset ∧
      (turnsOn 1 u).regs.cur.line ≠ u.regs.cur.line ∧ (turnsOn 1 u).regs.cfg ≠ u.regs.cfg ∧
      (turnsOn 1 u).regs.resp ≠ u.regs.resp := by decide
theorem witness_InitdIsSetByInitAndClearedByReset_set :
    let s := { powered with hostQ := [.write 0 .word 0x1000] }
    commitAtEnd s.seq = true ∧ s.regs.initd = false ∧ (turnsOn 1 s).regs.initd = true := by decide
theorem witness_InitdIsSetByInitAndClearedByReset_cleared :
    let s := { sigma with turns := [.blockReset] }
    commitAtEnd s.seq = true ∧ s.regs.initd = true ∧ (turnsOn 1 s).regs.initd = false := by decide
theorem witness_BlockResetAbandonsAnyRequest :
    nextTurn { waiting with turns := [.blockReset] } = .blockReset := by decide
theorem witness_BootStepsLeaveThePowerOnState :
    nextTurn { sigma with turns := [.boardBringUp] } = .boardBringUp ∧
      nextTurn { sigma with turns := [.controllerPowerUp true] } = .controllerPowerUp true ∧
      nextTurn { sigma with turns := [.controllerPowerUp false] } = .controllerPowerUp false := by decide

end Sys2Proof.Tests
end

section
/-! PROOFS. The host's turn and the register window, the values after reset, and what one micro-operation, one stretch
of a sequence, one instruction and one step do to the registers and leave unchanged (10_state.md). -/
namespace Sys2Proof.Machine

/-! ### The host's accesses -/

theorem step_host {s : State} (h : nextTurn s = .host) : step s = hostTurn { s with turns := s.turns.tail } := by
  simp only [step, h, takeTurn]

theorem alignedWord_iff (offset : Byte) (width : Width) :
    alignedWord offset width = true ↔ width = .word ∧ offset.toNat % 4 = 0 := by
  simp [alignedWord]

section
variable {s : State} {offset : Byte} {rest : List HostEvent} (ht : nextTurn s = .host)
include ht

/-- An aligned word read returns the window's word (R23). -/
theorem step_read (hq : s.hostQ = .read offset .word :: rest) (ha : offset.toNat % 4 = 0) :
    step s = .next { s with hostQ := rest, turns := s.turns.tail, hostData := readWindow s offset } := by
  rw [step_host ht]
  simp only [hostTurn, hq, if_pos ((alignedWord_iff _ _).2 ⟨rfl, ha⟩)]
  rfl

theorem step_write {w : Word32} (hq : s.hostQ = .write offset .word w :: rest) (ha : offset.toNat % 4 = 0) :
    step s =
      hostWrite offset w { s with turns := s.turns.tail } { s with hostQ := rest, turns := s.turns.tail } := by
  rw [step_host ht]
  simp only [hostTurn, hq, if_pos ((alignedWord_iff _ _).2 ⟨rfl, ha⟩)]

/-- An access that is not an aligned word is refused (R30). -/
theorem step_notAlignedWord {width : Width} {w : Word32} (h : width ≠ .word ∨ offset.toNat % 4 ≠ 0)
    (hq : s.hostQ = .write offset width w :: rest ∨ s.hostQ = .read offset width :: rest) :
    step s = .refused .hostAccessNotAlignedWord := by
  have hn : ¬ alignedWord offset width = true := by
    rw [alignedWord_iff]
    tauto
  rw [step_host ht]
  rcases hq with hq | hq <;> simp only [hostTurn, hq, if_neg hn]

end

theorem ready_iff (s : State) : ready s = true ↔ s.seq = [] := List.isEmpty_iff

/-- A write to `REQ` of the busy block is held (R24). -/
theorem hostWrite_req_busy {waiting done : State} {w : Word32} (h : waiting.seq ≠ []) :
    hostWrite 0 w waiting done = .next waiting := by
  rw [hostWrite, if_pos rfl, if_neg (mt (ready_iff _).1 h)]

/-- A legal word written to `REQ` of the ready block is executed (R24, R120). -/
theorem hostWrite_req_legal {waiting done : State} {w : Word32} {i : Instr} (h : waiting.seq = [])
    (hd : decodeWrite w = .ok i) : hostWrite 0 w waiting done = exec i done := by
  rw [hostWrite, if_pos rfl, if_pos ((ready_iff _).2 h), acceptWrite, hd]

/-- A write to any offset but `REQ` is ignored (R29). -/
theorem hostWrite_ignored {offset : Byte} {w : Word32} {waiting done : State} (h : offset ≠ 0) :
    hostWrite offset w waiting done = .next done :=
  if_neg h

/-! ### The words of the register window -/

theorem toNat_append_eq_add {m n : Nat} (x : BitVec m) (y : BitVec n) : (x ++ y).toNat = x.toNat * 2 ^ n + y.toNat := by
  rw [BitVec.toNat_append, ← Nat.shiftLeft_add_eq_or_of_lt y.isLt, Nat.shiftLeft_eq]

/-- `STATUS` in numbers: READY, INITD, ERR and DBOE (R25). -/
theorem statusWord_toNat (s : State) :
    (statusWord s).toNat =
      (if s.seq = [] then 1 else 0) + (if s.regs.initd then 2 else 0) + 16 * (errBits s.regs.err).toNat +
        (if s.pins.dbOe then 256 else 0) := by
  have hr : (ready s).toNat = if s.seq = [] then 1 else 0 := by
    split
    · rw [(ready_iff s).2 ‹_›]; rfl
    · rw [Bool.eq_false_iff.2 (mt (ready_iff s).1 ‹_›)]; rfl
  simp only [statusWord, toNat_append_eq_add, BitVec.toNat_ofBool, hr]
  cases s.regs.initd <;> cases s.pins.dbOe <;> simp <;> omega

theorem respWord_toNat (s : State) : (respWord s).toNat = s.regs.resp.toNat := by
  simp only [respWord, toNat_append_eq_add]
  simp

/-- `CFG` in numbers: LINES, FONT and the hard-wired BUSMODE (R27). -/
theorem cfgWord_toNat (s : State) :
    (cfgWord s).toNat =
      s.regs.cfg.lines.toNat + 2 * s.regs.cfg.font.toNat + (if s.params.busMode = .nibble4 then 4 else 0) := by
  simp only [cfgWord, toNat_append_eq_add]
  cases s.params.busMode <;> simp [busModeBit] <;> omega

theorem curWord_toNat (s : State) : (curWord s).toNat = s.regs.cur.col.toNat + 256 * s.regs.cur.line.toNat := by
  simp only [curWord, toNat_append_eq_add]
  simp
  omega

/-- The window in numbers; `REQ` and the reserved offsets read 0 (R24, R29). -/
theorem readWindow_toNat (s : State) (offset : Byte) :
    (readWindow s offset).toNat =
      if offset = 0x04 then (statusWord s).toNat
      else if offset = 0x08 then (respWord s).toNat
      else if offset = 0x0C then (cfgWord s).toNat
      else if offset = 0x10 then (curWord s).toNat
      else 0 := by
  unfold readWindow
  split
  case h_1 h => obtain rfl : offset = 0x04 := BitVec.eq_of_toNat_eq h; rfl
  case h_2 h => obtain rfl : offset = 0x08 := BitVec.eq_of_toNat_eq h; rfl
  case h_3 h => obtain rfl : offset = 0x0C := BitVec.eq_of_toNat_eq h; rfl
  case h_4 h => obtain rfl : offset = 0x10 := BitVec.eq_of_toNat_eq h; rfl
  case h_5 h4 h8 hC h10 =>
    rw [if_neg (h4 <| congrArg BitVec.toNat ·), if_neg (h8 <| congrArg BitVec.toNat ·),
      if_neg (hC <| congrArg BitVec.toNat ·), if_neg (h10 <| congrArg BitVec.toNat ·)]
    rfl

/-- Settles O13: the word is the window's, put in numbers register by register. -/
theorem hostReadReturnsTheRegister : Obligations.HostReadReturnsTheRegister := by
  unfold Obligations.HostReadReturnsTheRegister
  intro s offset rest ht hq ha
  refine ⟨readWindow s offset, step_read ht hq ha, ?_⟩
  simp only [readWindow_toNat, statusWord_toNat, respWord_toNat, cfgWord_toNat, curWord_toNat]

/-- Settles O10. -/
theorem writeToReqIsHeldWhileBusy : Obligations.WriteToReqIsHeldWhileBusy := by
  unfold Obligations.WriteToReqIsHeldWhileBusy
  intro s w rest ht hs hq
  exact (step_write ht hq rfl).trans (hostWrite_req_busy hs)

/-- Settles O14. -/
theorem otherHostAccessesAreIgnoredOrRefused : Obligations.OtherHostAccessesAreIgnoredOrRefused := by
  unfold Obligations.OtherHostAccessesAreIgnoredOrRefused
  intro s offset width w rest ht
  refine ⟨fun hq ha ho => ?_, step_notAlignedWord ht⟩
  rw [step_write ht hq ha, hostWrite_ignored ho]

/-! ### The instruction a step runs -/

/-- The controller, its reference model not refused, executes the command byte it has latched (R65). -/
theorem controllerTurn_command {s : State} {b : Byte} {i : Instr} (hm : s.lcd.offModel = false)
    (hp : s.lcd.pending = some { rs := .C, payload := b }) (hd : decode (.command b) = .ok i) :
    controllerTurn s = exec i (takeFrame s) := by
  simp only [controllerTurn, hp, hm, Bool.false_eq_true, if_false, executeHeldFrame, executeCommandByte, hd]

theorem step_controller {s : State} (h : nextTurn s = .controller) :
    step s = controllerTurn { s with turns := s.turns.tail } := by
  simp only [step, h, takeTurn]

/-- Settles O7. -/
theorem stepRunsTheDecodedInstruction : Obligations.StepRunsTheDecodedInstruction := by
  unfold Obligations.StepRunsTheDecodedInstruction
  intro s i
  refine ⟨fun w rest ht hs hq hd => ?_, fun b ht hm hp hd => ?_⟩
  · exact (step_write ht hq rfl).trans (hostWrite_req_legal hs hd)
  · exact (step_controller ht).trans (controllerTurn_command hm hp hd)

theorem toOption_eq_some {ε α : Type} {x : Except ε α} {a : α} (h : x.toOption = some a) : x = .ok a := by
  cases x with
  | error _ => cases h
  | ok _ => exact congrArg Except.ok (Option.some.inj h)

/-- Settles O9: the placed instruction meets the premises of `stepRunsTheDecodedInstruction`. -/
theorem placedInstructionRunsNext : Obligations.PlacedInstructionRunsNext := by
  unfold Obligations.PlacedInstructionRunsNext
  intro s nbits w i hd
  by_cases hn : nbits ≤ 8 <;> simp only [decodeTableWord, State.withFetchWord, hn, if_true, if_false] at hd ⊢
  · exact ⟨_, (stepRunsTheDecodedInstruction _ i).2 _ rfl rfl rfl (toOption_eq_some hd),
      rfl, rfl, rfl, rfl, rfl, rfl, rfl, rfl⟩
  · exact ⟨_, (stepRunsTheDecodedInstruction _ i).1 _ _ rfl rfl rfl (toOption_eq_some hd),
      rfl, rfl, rfl, rfl, rfl, rfl, rfl, rfl⟩

/-! ### Reset -/

/-- Settles O55: at reset nothing is left of a sequence, the trace and DDRAM are empty and the pins are released. -/
theorem resetMeetsTheInvariants : Obligations.ResetMeetsTheInvariants := by
  unfold Obligations.ResetMeetsTheInvariants
  intro p
  refine ⟨⟨rfl, fun h => absurd rfl h, fun _ => .inr ⟨rfl, rfl, rfl, rfl, rfl⟩⟩, ⟨rfl, rfl⟩, rfl, Memory.wf_nil, fun _ => rfl⟩

/-- Settles O56. -/
theorem resetValues : Obligations.ResetValues := by
  unfold Obligations.ResetValues
  decide

/-! ### What one micro-operation leaves unchanged -/

@[simp] theorem micro_params (op : MicroOp) (s : State) : (micro op s).params = s.params := by cases op <;> rfl

@[simp] theorem micro_reql (op : MicroOp) (s : State) : (micro op s).reql = s.reql := by cases op <;> rfl

theorem micro_surroundings (op : MicroOp) (s : State) : Surroundings s (micro op s) := by
  cases op <;> exact ⟨rfl, rfl, rfl, rfl, rfl, rfl, rfl⟩

/-- Only the commit writes the host-visible registers (R31). -/
theorem micro_regs {op : MicroOp} (h : op ≠ .commit) (s : State) : (micro op s).regs = s.regs := by
  cases op with
  | commit => exact absurd rfl h
  | _ => rfl

/-- The trace only grows (R9). -/
theorem micro_trace (op : MicroOp) (s : State) : s.trace <+: (micro op s).trace := by
  cases op with
  | latch r => exact ⟨_, rfl⟩
  | pollTest => exact ⟨_, rfl⟩
  | pollOnce => exact ⟨_, rfl⟩
  | rd r => exact ⟨_, rfl⟩
  | _ => exact ⟨[], List.append_nil _⟩

theorem micro_ctrlOe {op : MicroOp} (h : ∀ v, op ≠ .ctrlOe v) (s : State) :
    (micro op s).pins.ctrlOe = s.pins.ctrlOe := by
  cases op with
  | ctrlOe v => exact absurd rfl (h v)
  | _ => rfl

/-- Only the low nibble of a SPLIT8 write and the answer to a SPLIT8 read move the low segment (R126, R128). -/
theorem micro_lowSegment {op : MicroOp} (hw : op ≠ .driveLo) (hr : op ≠ .answer) (s : State) :
    (micro op s).pins.dbLoOut = s.pins.dbLoOut ∧ (micro op s).pins.dbLoIn = s.pins.dbLoIn := by
  cases op with
  | driveLo => exact absurd rfl hw
  | answer => exact absurd rfl hr
  | _ => exact ⟨rfl, rfl⟩

/-- A controller whose answers are draws is not followed (log 3). -/
theorem micro_lcd_draws {s : State} (h : s.params.controller = .draws) (op : MicroOp) : (micro op s).lcd = s.lcd := by
  have ha : s.lcdAnswered s.selected = s.lcd := by rw [State.lcdAnswered, h]
  cases op with
  | latch r => exact congrArg (lcdDelivered · (busFrame s) s.lcd) h
  | answer => exact ha
  | answerHigh => exact ha
  | _ => rfl

/-- Without `BUSY_TIMEOUT` no micro-operation counts polls (R37). -/
theorem micro_pollCountKept {s : State} (h : PollCountKept s) (op : MicroOp) : PollCountKept (micro op s) := by
  intro hn
  rw [micro_params] at hn
  cases op with
  | pollInit => rfl
  | pollTest =>
    show pollCount s = 0
    rw [pollCount, hn]
    exact h hn
  | _ => exact h hn

/-! ### The micro-operations a request's sequence holds -/

/-- Whether a micro-operation may stand in the sequence of request `i`: the control pins' drivers are turned on by INIT
alone (R35, R200), the low segment takes part in SPLIT8 alone (R127, R129), and the commit comes after the sequence. -/
def standsIn (m : BusMode) (i : Instr) : MicroOp → Bool
  | .ctrlOe _ => i == .init
  | .driveLo => m == .split8
  | .answer => m == .split8
  | .commit => false
  | _ => true

theorem rawReadOps_standsIn (m : BusMode) (i : Instr) (r : Rs) : (rawReadOps m r).all (standsIn m i) = true := by
  cases m <;> rfl

theorem rawWriteOps_standsIn (m : BusMode) (i : Instr) (r : Rs) : (rawWriteOps m r).all (standsIn m i) = true := by
  cases m <;> rfl

theorem pollRoundOps_standsIn (m : BusMode) (i : Instr) : (pollRoundOps m).all (standsIn m i) = true := by
  simp [pollRoundOps, rawReadOps_standsIn, standsIn]

theorem pollBusyOps_standsIn (m : BusMode) (i : Instr) : (pollBusyOps m).all (standsIn m i) = true := by
  simp [pollBusyOps, pollRoundOps_standsIn, standsIn]

theorem busWriteOps_standsIn (m : BusMode) (i : Instr) (r : Rs) (b : Byte) :
    (busWriteOps m r b).all (standsIn m i) = true := by
  simp [busWriteOps, pollBusyOps_standsIn, rawWriteOps_standsIn, standsIn]

theorem busReadOps_standsIn (m : BusMode) (i : Instr) (r : Rs) : (busReadOps m r).all (standsIn m i) = true := by
  simp [busReadOps, pollBusyOps_standsIn, rawReadOps_standsIn, standsIn]

theorem initCmdOps_standsIn (m : BusMode) (i : Instr) (ks : List Byte) :
    (initCmdOps m ks).all (standsIn m i) = true := by
  induction ks with
  | nil => rfl
  | cons k ks ih => rw [initCmdOps, List.all_append, busWriteOps_standsIn, ih]; rfl

theorem feedOps_standsIn (p : Params) (cfg : DisplayConfig) (i : Instr) (c : Byte) :
    (feedOps p cfg c).all (standsIn p.busMode i) = true := by
  unfold feedOps
  cases classOf c with
  | bs => simp [feedBsOps, busWriteOps_standsIn]
  | cr => simp [feedCrOps, crJumpOps, busWriteOps_standsIn, busReadOps_standsIn, pollBusyOps_standsIn,
      rawWriteOps_standsIn, standsIn]
  | lf => rfl
  | printable => simp [feedPrintableOps, busWriteOps_standsIn]

theorem sequenceOf_standsIn (p : Params) (cfg : DisplayConfig) (i : Instr) :
    (sequenceOf p cfg i).all (standsIn p.busMode i) = true := by
  cases i with
  | init => simp [sequenceOf, initOps, initPinOps, initCmdOps_standsIn, standsIn]
  | read r => exact busReadOps_standsIn _ _ _
  | busy => simp [sequenceOf, busyOps, rawReadOps_standsIn, standsIn]
  | feed c => exact feedOps_standsIn _ _ _ _
  | write r b => exact busWriteOps_standsIn _ _ _ _
  | clear => exact busWriteOps_standsIn _ _ _ _
  | home => exact busWriteOps_standsIn _ _ _ _
  | entry inc => exact busWriteOps_standsIn _ _ _ _
  | display on => exact busWriteOps_standsIn _ _ _ _
  | configure l f => exact busWriteOps_standsIn _ _ _ _
  | setaddr a => exact busWriteOps_standsIn _ _ _ _
  | line n => exact busWriteOps_standsIn _ _ _ _
  | _ => rfl

theorem standsIn_of_mem {p : Params} {cfg : DisplayConfig} {i : Instr} {op : MicroOp} (h : op ∈ sequenceOf p cfg i) :
    standsIn p.busMode i op = true :=
  List.all_eq_true.1 (sequenceOf_standsIn p cfg i) op h

theorem commit_notMem_sequenceOf (p : Params) (cfg : DisplayConfig) (i : Instr) : .commit ∉ sequenceOf p cfg i :=
  fun h => Bool.false_ne_true (standsIn_of_mem h)

theorem commit_notMem_pollRoundOps (m : BusMode) : .commit ∉ pollRoundOps m :=
  fun h => Bool.false_ne_true (List.all_eq_true.1 (pollRoundOps_standsIn m .init) _ h)

/-! ### Frames over a stretch of a sequence -/

/-- What ending a turn and each micro-operation of a sequence keep, the turn keeps. -/
theorem runSeq_keeps {P : State → Prop} {q : Option Nat} {ops : List MicroOp} {s : State}
    (hseq : ∀ u ops, P u → P { u with seq := ops }) (herr : ∀ u, P u → P (raiseError .busTimeout u))
    (hmicro : ∀ op ∈ ops, ∀ u, P u → P (micro op u)) (h : P s) : P (runSeq q ops s) := by
  refine runSeq_induction (P := fun rest u => (∀ op ∈ rest, op ∈ ops) ∧ P u) ?_ ?_ ?_ ?_ ?_ q ops s ⟨fun _ => id, h⟩
  · exact fun u hu => hseq u _ hu.2
  · exact fun op rest u hu => hseq u _ hu.2
  · exact fun rest u hu _ => herr _ (hmicro _ (hu.1 _ List.mem_cons_self) u hu.2)
  · exact fun rest u hu _ => hseq _ _ (hmicro _ (hu.1 _ List.mem_cons_self) u hu.2)
  · exact fun op rest u hu _ =>
      ⟨fun o ho => hu.1 o (List.mem_cons_of_mem _ ho), hmicro _ (hu.1 _ List.mem_cons_self) u hu.2⟩

theorem Surroundings.trans {s t u : State} (h : Surroundings s t) (g : Surroundings t u) : Surroundings s u := by
  obtain ⟨h1, h2, h3, h4, h5, h6, h7⟩ := h
  obtain ⟨g1, g2, g3, g4, g5, g6, g7⟩ := g
  exact ⟨g1.trans h1, g2.trans h2, g3.trans h3, g4.trans h4, g5.trans h5, g6.trans h6, g7.trans h7⟩

/-- What request `i` leaves unchanged from `s` to `t`, wherever its turn stops. -/
structure RequestFrame (i : Instr) (s t : State) : Prop where
  around : Surroundings s t
  trace : s.trace <+: t.trace
  ctrlOe : i ≠ .init → t.pins.ctrlOe = s.pins.ctrlOe
  lowSegment : s.params.busMode = .nibble4 → t.pins.dbLoOut = s.pins.dbLoOut ∧ t.pins.dbLoIn = s.pins.dbLoIn
  lcd : s.params.controller = .draws → t.lcd = s.lcd

theorem RequestFrame.refl (i : Instr) (s : State) : RequestFrame i s s :=
  ⟨⟨rfl, rfl, rfl, rfl, rfl, rfl, rfl⟩, ⟨[], List.append_nil _⟩, fun _ => rfl, fun _ => ⟨rfl, rfl⟩, fun _ => rfl⟩

/-- A micro-operation of the request's sequence, or its commit, keeps the frame. -/
theorem RequestFrame.micro {i : Instr} {s u : State} (f : RequestFrame i s u) {op : MicroOp}
    (hop : standsIn s.params.busMode i op = true ∨ op = .commit) : RequestFrame i s (micro op u) where
  around := f.around.trans (micro_surroundings op u)
  trace := f.trace.trans (micro_trace op u)
  ctrlOe hi := by
    refine (micro_ctrlOe (fun v hv => ?_) u).trans (f.ctrlOe hi)
    simp [hv, standsIn, hi] at hop
  lowSegment hm := by
    obtain ⟨ho, hn⟩ := micro_lowSegment (op := op) (by rintro rfl; simp [standsIn, hm] at hop)
      (by rintro rfl; simp [standsIn, hm] at hop) u
    exact ⟨ho.trans (f.lowSegment hm).1, hn.trans (f.lowSegment hm).2⟩
  lcd hd := (micro_lcd_draws ((congrArg Params.controller f.around.1).trans hd) op).trans (f.lcd hd)

theorem exec_request_frame {i : Instr} {s t : State} (hi : i.isRequest = true) (h : exec i s = .next t) :
    RequestFrame i s t := by
  have hrefl := RequestFrame.refl i s
  rcases exec_request_cases hi h with ⟨-, rfl⟩ | ⟨-, -, -, rfl⟩ | ⟨-, -, rfl⟩
  · exact hrefl
  · exact ⟨hrefl.around, hrefl.trace, hrefl.ctrlOe, hrefl.lowSegment, hrefl.lcd⟩
  · refine runSeq_keeps (P := RequestFrame i s) (fun u ops f => ⟨f.around, f.trace, f.ctrlOe, f.lowSegment, f.lcd⟩)
      (fun u f => ⟨f.around, f.trace, f.ctrlOe, f.lowSegment, f.lcd⟩) (fun op hop u f => f.micro ?_)
      ⟨hrefl.around, hrefl.trace, hrefl.ctrlOe, hrefl.lowSegment, hrefl.lcd⟩
    rcases List.mem_append.1 hop with hop | hop
    · exact .inl (standsIn_of_mem hop)
    · exact .inr (List.mem_singleton.1 hop)

/-- Of the command bytes only CMD_CLEAR and CMD_SET_CGRAM touch DDRAM (R66, R72). -/
theorem lcdCommand_ddram {i : Instr} (hc : i ≠ .cmdClear) (hg : ∀ a, i ≠ .cmdSetCgram a) (c : Lcd) :
    (lcdCommand i c).ddram = c.ddram := by
  cases i with
  | cmdClear => exact absurd rfl hc
  | cmdSetCgram a => exact absurd rfl (hg a)
  | cmdShift sc rl => simp only [lcdCommand, lcdShift]; split <;> rfl
  | _ => rfl

/-- Settles O48: a request keeps its frame through every micro-operation; a command byte acts on the controller. -/
theorem instructionsLeaveTheRestUnchanged : Obligations.InstructionsLeaveTheRestUnchanged := by
  unfold Obligations.InstructionsLeaveTheRestUnchanged
  intro i s t h
  cases hi : i.isRequest with
  | true =>
    have f := exec_request_frame hi h
    exact ⟨f.around, f.trace, fun hne => by_contra fun hn => hne (f.ctrlOe hn), f.lowSegment, fun _ => f.lcd, nofun⟩
  | false =>
    obtain rfl := exec_command_cases hi h
    have f := RequestFrame.refl i s
    exact ⟨f.around, f.trace, fun hne => absurd rfl hne, f.lowSegment, nofun,
      fun _ => ⟨rfl, fun hc hg => lcdCommand_ddram hc hg s.lcd⟩⟩

/-- What remains of a request keeps the parameters and the absence of a poll count. -/
theorem runSeq_params_pollCountKept (q : Option Nat) (ops : List MicroOp) {s : State} (h : PollCountKept s) :
    (runSeq q ops s).params = s.params ∧ PollCountKept (runSeq q ops s) :=
  runSeq_keeps (P := fun u => u.params = s.params ∧ PollCountKept u) (fun _ _ hu => hu) (fun _ hu => hu)
    (fun op _ u hu => ⟨(micro_params op u).trans hu.1, micro_pollCountKept hu.2 op⟩) ⟨rfl, h⟩

/-- Settles O54. -/
theorem parametersStayAndPollCountIsAbsent : Obligations.ParametersStayAndPollCountIsAbsent := by
  unfold Obligations.ParametersStayAndPollCountIsAbsent
  intro s t hk h
  rcases step_cases h with ⟨_, _, _, rfl⟩ | ⟨-, rfl⟩ | ⟨_, _, -, -, rfl⟩ | ⟨i, rest, -, -, hi, he⟩ | ⟨-, rfl⟩ |
    ⟨_, _, rfl, -⟩
  · exact ⟨rfl, hk⟩
  · exact ⟨rfl, fun _ => rfl⟩
  · exact ⟨rfl, hk⟩
  · rcases exec_request_cases hi he with ⟨-, rfl⟩ | ⟨-, -, -, rfl⟩ | ⟨-, -, rfl⟩
    · exact ⟨rfl, hk⟩
    · exact ⟨rfl, hk⟩
    · exact runSeq_params_pollCountKept _ _ (s := { s with turns := _, hostQ := _, reql := _ }) hk
  · exact runSeq_params_pollCountKept _ _ (s := { s with turns := _ }) hk
  · exact ⟨rfl, hk⟩

/-! ### The request a latched word names -/

theorem rsOfFlag_flagOfRs (r : Rs) : rsOfFlag (flagOfRs r) = r := by cases r <;> rfl

/-- A request's word decodes to the request; LINE's operand is read back from its one bit below. -/
theorem decode_requestBits {i : Instr} (hi : i.isRequest = true) (hl : ∀ n, i ≠ .line n) :
    decode (.request (requestBits i)) = .ok i := by
  cases i with
  | line n => exact absurd rfl (hl n)
  | cmdClear => cases hi
  | cmdHome => cases hi
  | cmdEntry _ _ => cases hi
  | cmdDisplay _ _ _ => cases hi
  | cmdShift _ _ => cases hi
  | cmdFunctionSet _ _ _ => cases hi
  | cmdSetCgram _ => cases hi
  | cmdSetDdram _ => cases hi
  | _ => simp [requestBits, encode, decode, decodeRequest, guardZero, rsOfFlag_flagOfRs]

theorem decode_requestBits_line (n : Nat) :
    decode (.request (requestBits (.line n))) = .ok (.line ((BitVec.ofNat 1 (n - 1)).toNat + 1)) := by
  simp [requestBits, encode, decode, decodeRequest, guardZero]

/-- The word of any request, well formed or not, names one that commits the same updates. -/
theorem commitOf_decoded {i j : Instr} (hi : i.isRequest = true) (hd : decode (.request (requestBits i)) = .ok j)
    (p : Params) (v : Byte) (r : Regs) : commitOf p v j r = commitOf p v i r := by
  by_cases hl : ∃ n, i = .line n
  · obtain ⟨n, rfl⟩ := hl
    rw [decode_requestBits_line] at hd
    obtain rfl := Except.ok.inj hd
    simp only [commitOf, commitLine, Nat.add_sub_cancel, BitVec.ofNat_toNat, BitVec.setWidth_eq]
  · rw [decode_requestBits hi (not_exists.1 hl)] at hd
    rw [Except.ok.inj hd]

/-! ### The registers a request commits -/

/-- Only a carriage return is of the class that changes the line and the configuration (R105). -/
theorem eq_of_classOf_cr {c : Byte} (h : classOf c = .cr) : c = 0x0D := by
  unfold classOf at h
  split at h
  · cases h
  · split at h
    · assumption
    · split at h <;> cases h

/-- FEED of any byte but a carriage return leaves the line and the configuration (R174, R176, R177). -/
theorem commitFeed_line_cfg {c : Byte} (h : c ≠ 0x0D) (p : Params) (v : Byte) (r : Regs) :
    (commitFeed p v c r).cur.line = r.cur.line ∧ (commitFeed p v c r).cfg = r.cfg := by
  simp only [commitFeed]
  cases hk : classOf c with
  | cr => exact absurd (eq_of_classOf_cr hk) h
  | _ => exact ⟨rfl, rfl⟩

section
variable {p : Params} {v : Byte} {i : Instr} {r : Regs}

/-- A request that changes `CUR` is one R40 names. -/
theorem writesCur_of_commitOf (h : (commitOf p v i r).cur ≠ r.cur) : WritesCur i := by
  cases i with
  | init => simp [WritesCur]
  | clear => simp [WritesCur]
  | home => simp [WritesCur]
  | line n => simp [WritesCur]
  | ldcur l c => simp [WritesCur]
  | feed c =>
    have hc : c ≠ 0x0A := by
      rintro rfl
      exact h rfl
    simpa [WritesCur] using hc
  | _ => exact absurd rfl h

/-- A request that changes `CUR.LINE` is one R40 names. -/
theorem writesLine_of_commitOf (h : (commitOf p v i r).cur.line ≠ r.cur.line) : WritesLine i := by
  cases i with
  | init => simp [WritesLine]
  | clear => simp [WritesLine]
  | home => simp [WritesLine]
  | line n => simp [WritesLine]
  | ldcur l c => simp [WritesLine]
  | feed c => simpa [WritesLine] using not_imp_comm.1 (fun hc => (commitFeed_line_cfg hc p v r).1) h
  | _ => exact absurd rfl h

/-- A request that changes `CFG` is one R27 names. -/
theorem writesCfg_of_commitOf (h : (commitOf p v i r).cfg ≠ r.cfg) : WritesCfg i := by
  cases i with
  | init => simp [WritesCfg]
  | configure l f => simp [WritesCfg]
  | feed c => simpa [WritesCfg] using not_imp_comm.1 (fun hc => (commitFeed_line_cfg hc p v r).2) h
  | _ => exact absurd rfl h

/-- A request that changes `RESP` is one R26 names. -/
theorem writesResp_of_commitOf (h : (commitOf p v i r).resp ≠ r.resp) : WritesResp i := by
  cases i with
  | read r => simp [WritesResp]
  | busy => simp [WritesResp]
  | feed c => simp [WritesResp]
  | _ => exact absurd rfl h

/-- INIT sets `INITD`, and no other request writes it (R25, R200). -/
theorem commitOf_initd (p : Params) (v : Byte) (i : Instr) (r : Regs) :
    (commitOf p v i r).initd = (r.initd || i == .init) := by
  cases i with
  | init => simp [commitOf, commitInit]
  | feed c => simp only [commitOf, commitFeed]; cases classOf c <;> simp [commitFeedClass]
  | _ => exact (Bool.or_false _).symm

end

/-! ### Where the commit stands in what remains of a sequence -/

theorem commitAtEnd_cons (op : MicroOp) (ops : List MicroOp) :
    commitAtEnd (op :: ops) = true ↔ (op = .commit → ops = []) ∧ commitAtEnd ops = true := by
  simp only [commitAtEnd, Bool.and_eq_true, Bool.or_eq_true, bne_iff_ne, List.isEmpty_iff, imp_iff_not_or]

/-- A stretch without a commit in front leaves the commit last. -/
theorem commitAtEnd_append {ops rest : List MicroOp} (h : .commit ∉ ops) (hr : commitAtEnd rest = true) :
    commitAtEnd (ops ++ rest) = true := by
  induction ops with
  | nil => exact hr
  | cons op ops ih =>
    rw [List.mem_cons, not_or] at h
    exact (commitAtEnd_cons _ _).2 ⟨fun he => absurd he.symm h.1, ih h.2⟩

/-! ### Where a turn of a request ends -/

/-- Nothing but `STATUS.ERR` differs. -/
abbrev OnlyErr (r r' : Regs) : Prop := r' = { r with err := r'.err }

/-- The request in REQL has completed: its updates together with `ERR = 0` (R31). -/
abbrev Committed (s t : State) : Prop :=
  t.seq = [] ∧ ∃ i v, decode (.request t.reql) = .ok i ∧ t.regs = { commitOf s.params v i s.regs with err := .ok }

/-- Where a turn of the request in REQL can end: still running, the registers as they were; ended with an error; or
completed (R31, R120, R212). -/
structure TurnEnd (s t : State) : Prop where
  reql : t.reql = s.reql
  commitLast : commitAtEnd t.seq = true
  running : t.seq ≠ [] → t.regs = s.regs
  regs : OnlyErr s.regs t.regs ∨ Committed s t

/-- The registers `r'` are those of `s` with the updates of the request in REQL, its own read having returned some byte. -/
abbrev CommittedRegs (s : State) (r' : Regs) : Prop :=
  ∃ v, r' = { committedRegs { s with acc := v } with err := .ok }

/-- Inside a turn that began in `s`, with `ops` to come: the registers are as they were until the commit, which is last. -/
structure MidTurn (s : State) (ops : List MicroOp) (u : State) : Prop where
  params : u.params = s.params
  reql : u.reql = s.reql
  commitLast : commitAtEnd ops = true
  regs : u.regs = s.regs ∨ ops = [] ∧ CommittedRegs s u.regs

theorem committedRegs_congr {s u : State} (hp : u.params = s.params) (hq : u.reql = s.reql) (hr : u.regs = s.regs) :
    committedRegs u = committedRegs { s with acc := u.acc } := by
  simp only [committedRegs, hp, hq, hr]

theorem MidTurn.regs_of_cons {s u : State} {op : MicroOp} {ops : List MicroOp} (m : MidTurn s (op :: ops) u) :
    u.regs = s.regs :=
  m.regs.resolve_right fun h => List.cons_ne_nil _ _ h.1

theorem MidTurn.micro {s u : State} {op : MicroOp} {ops : List MicroOp} (m : MidTurn s (op :: ops) u) :
    MidTurn s ops (micro op u) where
  params := (micro_params op u).trans m.params
  reql := (micro_reql op u).trans m.reql
  commitLast := ((commitAtEnd_cons op ops).1 m.commitLast).2
  regs := by
    by_cases hop : op = .commit
    · subst hop
      refine .inr ⟨((commitAtEnd_cons _ ops).1 m.commitLast).1 rfl, u.acc, ?_⟩
      rw [← committedRegs_congr m.params m.reql m.regs_of_cons]
      rfl
    · exact .inl ((micro_regs hop u).trans m.regs_of_cons)

/-- The updates of REQL's word are those of the request it names, or none where it names none. -/
theorem onlyErr_or_committed {s u : State} (hq : u.reql = s.reql) (h : CommittedRegs s u.regs) :
    OnlyErr s.regs u.regs ∨ Committed s { u with seq := [] } := by
  obtain ⟨v, hv⟩ := h
  cases hd : decode (.request s.reql) with
  | error e =>
    have hc : committedRegs { s with acc := v } = s.regs := by simp only [committedRegs, hd]
    exact .inl (by rw [hv, hc])
  | ok i =>
    have hc : committedRegs { s with acc := v } = commitOf s.params v i s.regs := by simp only [committedRegs, hd]
    exact .inr ⟨rfl, i, v, hq ▸ hd, by rw [← hc]; exact hv⟩

/-- A turn of what remains of a request ends as `TurnEnd` says. -/
theorem runSeq_turnEnd (q : Option Nat) {ops : List MicroOp} {s : State} (h : commitAtEnd ops = true) :
    TurnEnd s (runSeq q ops s) := by
  refine runSeq_induction (P := MidTurn s) ?_ ?_ ?_ ?_ ?_ q ops s ⟨rfl, rfl, h, .inl rfl⟩
  · intro u m
    refine ⟨m.reql, rfl, fun hne => absurd rfl hne, ?_⟩
    rcases m.regs with hr | ⟨-, hc⟩
    · exact .inl (by rw [← hr])
    · exact onlyErr_or_committed m.reql hc
  · intro op rest u m
    exact ⟨m.reql, m.commitLast, fun _ => m.regs_of_cons, .inl (by rw [← m.regs_of_cons])⟩
  · intro rest u m _
    have hr : (micro .pollTest u).regs = s.regs := m.regs_of_cons
    exact ⟨m.reql, rfl, fun hne => absurd rfl hne, .inl (by rw [← hr]; rfl)⟩
  · intro rest u m _
    have hr : (micro .pollTest u).regs = s.regs := m.regs_of_cons
    exact ⟨m.reql, commitAtEnd_append (commit_notMem_pollRoundOps _) m.micro.commitLast, fun _ => hr,
      .inl (by rw [← hr])⟩
  · exact fun op rest u m _ => m.micro

/-- On the ready block a request's first turn, with its word latched, ends as `TurnEnd` says. -/
theorem exec_request_turnEnd {i : Instr} {s t : State} (hs : s.seq = []) (hi : i.isRequest = true)
    (h : exec i s = .next t) : TurnEnd { s with reql := requestBits i } t := by
  rcases exec_request_cases hi h with ⟨hn, -⟩ | ⟨-, -, -, rfl⟩ | ⟨-, -, rfl⟩
  · exact absurd hs hn
  · exact ⟨rfl, rfl, fun hne => absurd rfl hne, .inl rfl⟩
  · exact runSeq_turnEnd _ (commitAtEnd_append (commit_notMem_sequenceOf _ _ _) rfl)

/-- An instruction changes no register but ERR, or is a request that commits its own updates. -/
theorem exec_regs {i : Instr} {s t : State} (h : exec i s = .next t) :
    OnlyErr s.regs t.regs ∨ ∃ v, t.regs = { commitOf s.params v i s.regs with err := .ok } := by
  cases hi : i.isRequest with
  | false => exact .inl (by rw [exec_command_cases hi h])
  | true =>
    by_cases hs : s.seq = []
    · have e := exec_request_turnEnd hs hi h
      refine e.regs.imp_right ?_
      rintro ⟨-, j, v, hd, hr⟩
      rw [e.reql] at hd
      exact ⟨v, by rw [hr, commitOf_decoded hi hd]⟩
    · rcases exec_request_cases hi h with ⟨-, rfl⟩ | ⟨hn, -⟩ | ⟨hn, -⟩
      · exact .inl rfl
      · exact absurd hn hs
      · exact absurd hn hs

/-- Settles O46: what an instruction changes is what its commit changes. -/
theorem onlyTheNamedRequestsWriteEachRegister : Obligations.OnlyTheNamedRequestsWriteEachRegister := by
  unfold Obligations.OnlyTheNamedRequestsWriteEachRegister
  intro i s t h
  rcases exec_regs h with hr | ⟨v, hr⟩ <;> rw [hr]
  · exact ⟨fun hn => absurd rfl hn, fun hn => absurd rfl hn, fun hn => absurd rfl hn, fun hn => absurd rfl hn,
      fun hn => absurd rfl hn⟩
  · refine ⟨writesCur_of_commitOf, writesLine_of_commitOf, writesCfg_of_commitOf, writesResp_of_commitOf, fun hn => ?_⟩
    by_contra hi
    exact hn (by simp [commitOf_initd, hi])

/-! ### What a step does to the registers -/

/-- A step is a block reset, leaves the sequencer, REQL and the registers alone, or is a turn of a request or of a word
that is none, from a state with these registers. -/
theorem step_turnEnd {s t : State} (hc : commitAtEnd s.seq = true) (h : step s = .next t) :
    (nextTurn s = .blockReset ∧ t = blockReset { s with turns := s.turns.tail }) ∨
      (t.seq = s.seq ∧ t.reql = s.reql ∧ t.regs = s.regs) ∨
      ∃ u, u.params = s.params ∧ u.regs = s.regs ∧ (s.seq ≠ [] → u.reql = s.reql) ∧ TurnEnd u t := by
  rcases step_cases h with ⟨_, _, _, rfl⟩ | hb | ⟨w, rest, -, hs, rfl⟩ | ⟨i, rest, -, hs, hi, he⟩ | ⟨-, rfl⟩ |
    ⟨_, _, rfl, -⟩
  · exact .inr (.inl ⟨rfl, rfl, rfl⟩)
  · exact .inl hb
  · exact .inr (.inr ⟨{ s with reql := w }, rfl, rfl, fun hne => absurd hs hne,
      ⟨rfl, rfl, fun hne => absurd rfl hne, .inl rfl⟩⟩)
  · have e := exec_request_turnEnd (s := { s with turns := s.turns.tail, hostQ := rest }) hs hi he
    exact .inr (.inr ⟨{ s with turns := s.turns.tail, hostQ := rest, reql := requestBits i }, rfl, rfl,
      fun hne => absurd hs hne, e⟩)
  · exact .inr (.inr ⟨{ s with turns := s.turns.tail }, rfl, rfl, fun _ => rfl, runSeq_turnEnd _ hc⟩)
  · exact .inr (.inl ⟨rfl, rfl, rfl⟩)

/-- In every step but block reset no register but ERR changes, or the request in REQL completes. -/
theorem step_regs {s t : State} (hc : commitAtEnd s.seq = true) (h : step s = .next t) :
    (nextTurn s = .blockReset ∧ t = blockReset { s with turns := s.turns.tail }) ∨
      OnlyErr s.regs t.regs ∨ Committed s t := by
  rcases step_turnEnd hc h with hb | ⟨-, -, hr⟩ | ⟨u, hp, hr, -, e⟩
  · exact .inl hb
  · exact .inr (.inl (by rw [hr]))
  · have he := e.regs
    rw [Committed, hp, hr] at he
    exact .inr he

/-- Settles O47. -/
theorem stepWritesRegistersOnlyByTheNamedRequests : Obligations.StepWritesRegistersOnlyByTheNamedRequests := by
  unfold Obligations.StepWritesRegistersOnlyByTheNamedRequests
  intro s t hc h hb
  rcases step_regs hc h with ⟨hr, -⟩ | hr | ⟨hs, i, v, hd, hr⟩
  · exact absurd hr hb
  · rw [hr]
    exact ⟨fun hn => absurd rfl hn, fun hn => absurd rfl hn, fun hn => absurd rfl hn, fun hn => absurd rfl hn,
      fun hn => by simp at hn⟩
  · rw [hr]
    exact ⟨fun hn => ⟨i, hd, writesCur_of_commitOf hn⟩, fun hn => ⟨i, hd, writesLine_of_commitOf hn⟩,
      fun hn => ⟨i, hd, writesCfg_of_commitOf hn⟩, fun hn => ⟨i, hd, writesResp_of_commitOf hn⟩, fun _ => ⟨hs, rfl⟩⟩

/-- Settles O51. -/
theorem registersChangeOnlyAtCompletion : Obligations.RegistersChangeOnlyAtCompletion := by
  unfold Obligations.RegistersChangeOnlyAtCompletion
  intro s t hc h
  rcases step_turnEnd hc h with ⟨-, rfl⟩ | ⟨hs, hq, hr⟩ | ⟨u, -, hr, hq, e⟩
  · exact ⟨rfl, fun hne => absurd rfl hne⟩
  · exact ⟨hs ▸ hc, fun _ => ⟨hr, fun _ => hq⟩⟩
  · exact ⟨e.commitLast, fun hne => ⟨(e.running hne).trans hr, fun hs => e.reql.trans (hq hs)⟩⟩

/-- Settles O52: only the commit of INIT sets INITD, and no commit clears it. -/
theorem initdIsSetByInitAndClearedByReset : Obligations.InitdIsSetByInitAndClearedByReset := by
  unfold Obligations.InitdIsSetByInitAndClearedByReset
  intro s t hc h
  rcases step_regs hc h with ⟨hb, rfl⟩ | hr | ⟨hs, i, v, hd, hr⟩
  · exact ⟨fun _ hi => absurd hi Bool.false_ne_true, fun _ _ => hb⟩
  · rw [hr]
    exact ⟨fun h0 h1 => absurd (h0.symm.trans h1) Bool.false_ne_true,
      fun h1 h0 => absurd (h0.symm.trans h1) Bool.false_ne_true⟩
  · rw [hr]
    refine ⟨fun h0 h1 => ⟨hs, rfl, ?_⟩, fun h1 h0 => ?_⟩
    · have hi : i = .init := by simpa [commitOf_initd, h0] using h1
      exact hi ▸ hd
    · simp [commitOf_initd, h1] at h0

end Sys2Proof.Machine
end

section
/-! PROOFS. Two invariants of memory and bus that every step keeps: the busy handshake (R57, R125), and what every operation
of the controller keeps, so DDRAM's canonical form (R62) and the refusal of the reference model (R72). -/
namespace Sys2Proof.Machine

/-! ### The busy handshake -/

theorem endsClear_append_singleton (tr : List Event) (ev : Event) : endsClear (tr ++ [ev]) = clearPoll ev := by
  rw [endsClear, List.getLast?_concat]

/-- One more event keeps the handshake when it is a poll, or follows a clear poll (R57). -/
theorem handshakeFrom_append_singleton (c : Bool) (tr : List Event) (ev : Event) :
    handshakeFrom c (tr ++ [ev]) =
      (handshakeFrom c tr && (!isTransfer ev || tr.getLast?.elim c clearPoll)) := by
  induction tr generalizing c with
  | nil => cases ev <;> simp [handshakeFrom, isTransfer]
  | cons e tr ih =>
    have hlast : (e :: tr).getLast?.elim c clearPoll = tr.getLast?.elim (clearPoll e) clearPoll := by
      rw [List.getLast?_cons]
      cases tr.getLast? <;> rfl
    rw [hlast]
    cases e <;> simp [handshakeFrom, ih, clearPoll, Bool.and_assoc]

/-- The invariant with `ops` to come, in place of the state's own sequence. -/
abbrev HandshakeWith (ops : List MicroOp) (s : State) : Prop :=
  handshakeFrom false s.trace = true ∧ guarded (endsClear s.trace) ops = true

/-- Where no clear poll is needed, one does no harm. -/
theorem guarded_of_false {ops : List MicroOp} (c : Bool) (h : guarded false ops = true) : guarded c ops = true := by
  cases c with
  | false => exact h
  | true =>
    induction ops with
    | nil => rfl
    | cons op ops ih =>
      cases op with
      | latch r => cases h
      | rd r => cases h
      | pollTest => exact h
      | pollOnce => exact h
      | _ => exact ih h

/-- A poll round lets whatever follows it through, as a clear poll stands before it (R125). -/
theorem guarded_pollRound (c : Bool) (m : BusMode) (rest : List MicroOp) :
    guarded c (pollRoundOps m ++ rest) = guarded true rest := by
  cases m <;> rfl

theorem guarded_busWrite (c : Bool) (m : BusMode) (r : Rs) (b : Byte) (rest : List MicroOp) :
    guarded c (busWriteOps m r b ++ rest) = guarded false rest := by
  cases m <;> rfl

theorem guarded_busRead (c : Bool) (m : BusMode) (r : Rs) (rest : List MicroOp) :
    guarded c (busReadOps m r ++ rest) = guarded false rest := by
  cases m <;> rfl

theorem guarded_crJump (c : Bool) (m : BusMode) (rest : List MicroOp) :
    guarded c (crJumpOps m ++ rest) = guarded false rest := by
  cases m <;> rfl

theorem guarded_initCmds (c : Bool) (m : BusMode) (ks : List Byte) :
    guarded c (initCmdOps m ks ++ [.commit]) = true := by
  induction ks generalizing c with
  | nil => rfl
  | cons k ks ih => rw [initCmdOps, List.append_assoc, guarded_busWrite, ih]

theorem guarded_feedOps (c : Bool) (p : Params) (cfg : DisplayConfig) (b : Byte) :
    guarded c (feedOps p cfg b ++ [.commit]) = true := by
  unfold feedOps
  cases classOf b with
  | bs => simp only [feedBsOps, List.append_assoc, guarded_busWrite]; rfl
  | cr => simp only [feedCrOps, List.append_assoc, guarded_busWrite, guarded_busRead, guarded_crJump]; rfl
  | lf => rfl
  | printable => simp only [feedPrintableOps, List.append_assoc, guarded_busWrite]; rfl

/-- Every request polls before each of its transfers, whatever stands in the trace before it (R124, R125). -/
theorem guarded_sequenceOf (c : Bool) (p : Params) (cfg : DisplayConfig) (i : Instr) :
    guarded c (sequenceOf p cfg i ++ [.commit]) = true := by
  cases i with
  | init => exact guarded_initCmds c _ _
  | feed b => exact guarded_feedOps c p cfg b
  | read r => exact guarded_busRead c _ r _
  | busy => cases hm : p.busMode <;> simp only [sequenceOf, busyOps, hm] <;> rfl
  | write r b => exact guarded_busWrite c _ r b _
  | clear => exact guarded_busWrite c _ _ _ _
  | home => exact guarded_busWrite c _ _ _ _
  | entry inc => exact guarded_busWrite c _ _ _ _
  | display on => exact guarded_busWrite c _ _ _ _
  | configure l f => exact guarded_busWrite c _ _ _ _
  | setaddr a => exact guarded_busWrite c _ _ _ _
  | line n => exact guarded_busWrite c _ _ _ _
  | _ => rfl

/-- A poll keeps the handshake, and the trace then ends as its busy bit says. -/
theorem handshakeFrom_append_poll {tr : List Event} (v : Byte) (h : handshakeFrom false tr = true) :
    handshakeFrom false (tr ++ [.poll v]) = true ∧ endsClear (tr ++ [.poll v]) = !busyFlag v := by
  rw [handshakeFrom_append_singleton, h, endsClear_append_singleton]
  exact ⟨rfl, rfl⟩

/-- A transfer after a clear poll keeps the handshake, and the trace then ends with no clear poll. -/
theorem handshakeFrom_append_transfer {tr : List Event} {ev : Event} (ht : isTransfer ev = true)
    (h : handshakeFrom false tr = true) (hc : endsClear tr = true) :
    handshakeFrom false (tr ++ [ev]) = true ∧ endsClear (tr ++ [ev]) = false := by
  have hlast : tr.getLast?.elim false clearPoll = true := by
    rw [← hc, endsClear]
    cases tr.getLast? <;> rfl
  rw [handshakeFrom_append_singleton, h, hlast, endsClear_append_singleton, Bool.or_true]
  cases ev with
  | poll v => cases ht
  | wr r b => exact ⟨rfl, rfl⟩
  | rd r v => exact ⟨rfl, rfl⟩

theorem HandshakeWith.micro {op : MicroOp} {rest : List MicroOp} {s : State} (h : HandshakeWith (op :: rest) s)
    (hclear : op = .pollTest → busyFlag s.rxByte = false) : HandshakeWith rest (micro op s) := by
  obtain ⟨htr, hg⟩ := h
  cases op with
  | latch r =>
    obtain ⟨hc, hg⟩ := Bool.and_eq_true_iff.1 hg
    obtain ⟨htr', he⟩ := handshakeFrom_append_transfer (ev := .wr r s.tx) rfl htr hc
    exact ⟨htr', he ▸ hg⟩
  | rd r =>
    obtain ⟨hc, hg⟩ := Bool.and_eq_true_iff.1 hg
    obtain ⟨htr', he⟩ := handshakeFrom_append_transfer (ev := .rd r s.rxByte) rfl htr hc
    exact ⟨htr', he ▸ hg⟩
  | pollTest =>
    obtain ⟨htr', he⟩ := handshakeFrom_append_poll s.rxByte htr
    rw [hclear rfl] at he
    exact ⟨htr', he ▸ hg⟩
  | pollOnce => exact ⟨(handshakeFrom_append_poll s.rxByte htr).1, guarded_of_false _ hg⟩
  | _ => exact ⟨htr, hg⟩

/-- A turn of what remains of a request keeps the handshake, also where a busy check sends it back (R125). -/
theorem runSeq_handshakeKept (q : Option Nat) {ops : List MicroOp} {s : State} (h : HandshakeWith ops s) :
    HandshakeKept (runSeq q ops s) := by
  refine runSeq_induction (P := HandshakeWith) ?_ ?_ ?_ ?_ ?_ q ops s h
  · exact fun u hu => ⟨hu.1, rfl⟩
  · exact fun op rest u hu => hu
  · exact fun rest u hu _ => ⟨(handshakeFrom_append_poll u.rxByte hu.1).1, rfl⟩
  · exact fun rest u hu _ => ⟨(handshakeFrom_append_poll u.rxByte hu.1).1, (guarded_pollRound _ _ _).trans hu.2⟩
  · exact fun op rest u hu hb => hu.micro hb

/-- Settles O50: a turn of a request keeps the handshake, and no other step touches the trace. -/
theorem handshakeStaysKept : Obligations.HandshakeStaysKept := by
  unfold Obligations.HandshakeStaysKept
  intro s t hk h
  rcases step_cases h with ⟨_, _, _, rfl⟩ | ⟨-, rfl⟩ | ⟨_, _, -, -, rfl⟩ | ⟨i, rest, -, -, hi, he⟩ | ⟨-, rfl⟩ |
    ⟨_, _, rfl, -⟩
  · exact hk
  · exact ⟨hk.1, rfl⟩
  · exact ⟨hk.1, rfl⟩
  · rcases exec_request_cases hi he with ⟨-, rfl⟩ | ⟨-, -, -, rfl⟩ | ⟨-, -, rfl⟩
    · exact hk
    · exact ⟨hk.1, rfl⟩
    · exact runSeq_handshakeKept _ ⟨hk.1, guarded_sequenceOf _ _ _ _⟩
  · exact runSeq_handshakeKept _ hk
  · exact hk

/-! ### What every operation of the controller keeps -/

/-- What each operation a step performs on the controller keeps: a read and a write of the bus, the execution of a frame
it holds, block reset and power-up. -/
structure KeptByController (P : Lcd → Prop) : Prop where
  answer : ∀ r d c, P c → P (referenceAnswer r d c).2
  latch : ∀ f c, P c → P (latchIn f c)
  take : ∀ c, P c → P { c with pending := none }
  command : ∀ i c, P c → P (lcdCommand i c)
  dataWrite : ∀ b c, P c → P (lcdDataWrite b c)
  any : ∀ c, P c → P (anyController c)
  anyBusy : ∀ c, P c → P (anyPending c)
  powerUp : ∀ m met c, P c → P (lcdPowerUp m met c)

section
variable {P : Lcd → Prop} (k : KeptByController P)
include k

theorem KeptByController.answered {s : State} (r : Rs) (h : P s.lcd) : P (s.lcdAnswered r) := by
  unfold State.lcdAnswered
  split
  · exact h
  · exact k.answer _ _ _ h

theorem KeptByController.delivered (kind : ControllerKind) (f : Frame) {c : Lcd} (h : P c) :
    P (lcdDelivered kind f c) := by
  cases kind with
  | draws => exact h
  | reference => exact k.latch f c h

theorem KeptByController.micro {s : State} (op : MicroOp) (h : P s.lcd) : P (micro op s).lcd := by
  cases op with
  | latch r => exact k.delivered _ _ h
  | answer => exact k.answered _ h
  | answerHigh => exact k.answered _ h
  | _ => exact h

theorem KeptByController.runSeq (q : Option Nat) (ops : List MicroOp) {s : State} (h : P s.lcd) :
    P (runSeq q ops s).lcd :=
  runSeq_keeps (P := fun u => P u.lcd) (fun _ _ hu => hu) (fun _ hu => hu) (fun op _ _ hu => k.micro op hu) h

/-- What every operation of the controller keeps, every step keeps. -/
theorem KeptByController.step {s t : State} (hs : P s.lcd) (h : step s = .next t) : P t.lcd := by
  rcases step_cases h with ⟨_, _, _, rfl⟩ | ⟨-, rfl⟩ | ⟨_, _, -, -, rfl⟩ | ⟨i, rest, -, -, hi, he⟩ | ⟨-, rfl⟩ |
    ⟨_, _, rfl, hc⟩
  · exact hs
  · exact k.anyBusy _ (k.any _ hs)
  · exact hs
  · rcases exec_request_cases hi he with ⟨-, rfl⟩ | ⟨-, -, -, rfl⟩ | ⟨-, -, rfl⟩
    · exact hs
    · exact hs
    · exact k.runSeq _ _ hs
  · exact k.runSeq _ _ hs
  · rcases hc with ⟨i, -, rfl⟩ | rfl | ⟨b, rfl⟩ | ⟨met, rfl⟩
    · exact k.command _ _ (k.take _ hs)
    · exact k.any _ (k.take _ hs)
    · exact k.dataWrite _ _ (k.take _ hs)
    · exact k.powerUp _ _ _ hs

end

/-- Settles O53. -/
theorem ddramStaysCanonical : Obligations.DdramStaysCanonical := by
  unfold Obligations.DdramStaysCanonical
  have k : KeptByController (fun c => Memory.wf c.ddram) :=
    { answer := fun r d _ h => referenceAnswer_wf r d h
      latch := fun _ _ h => h
      take := fun _ h => h
      command := fun i _ h => lcdCommand_wf i h
      dataWrite := fun b _ h => lcdDataWrite_wf b h
      any := fun c _ => anyController_wf c
      anyBusy := fun _ h => h
      powerUp := fun m met c _ => lcdPowerUp_wf m met c }
  exact fun s t hs h => k.step hs h

/-- Settles O43. -/
theorem refusalOfTheReferenceModelLasts : Obligations.RefusalOfTheReferenceModelLasts := by
  unfold Obligations.RefusalOfTheReferenceModelLasts
  have k : KeptByController (fun c => c.offModel = true) :=
    { answer := fun r d _ h => (referenceAnswer_offModel r d h).2
      latch := fun f c h => by rw [latchIn_offModel, h, Bool.true_or]
      take := fun _ h => h
      command := fun _ _ h => lcdCommand_offModel h
      dataWrite := fun b c h => (lcdDataWrite_offModel b c).trans h
      any := fun _ h => h
      anyBusy := fun _ h => h
      powerUp := fun m met c h => (lcdPowerUp_offModel m met c).trans h }
  exact fun s t hs h => k.step hs h

end Sys2Proof.Machine
end

section
/-! PROOFS. The reference controller (R62 to R78): the frames it executes, its commands, data writes and reads, its busy
check and its power-up. -/
namespace Sys2Proof.Machine

/-! ### A frame executed, in the controller's turn or at a clear poll -/

/-- A command byte's instruction acts on the controller alone (R60). -/
theorem exec_command {i : Instr} (hi : i.isRequest = false) (s : State) :
    exec i s = .next { s with lcd := lcdCommand i s.lcd } := by
  cases i with
  | cmdClear => rfl
  | cmdHome => rfl
  | cmdEntry _ _ => rfl
  | cmdDisplay _ _ _ => rfl
  | cmdShift _ _ => rfl
  | cmdFunctionSet _ _ _ => rfl
  | cmdSetCgram _ => rfl
  | cmdSetDdram _ => rfl
  | _ => cases hi

/-- Executing a command frame, the reference model not refused, is the command's effect (R65). -/
theorem executeFrame_command {c : Lcd} {b : Byte} {i : Instr} (hm : c.offModel = false)
    (hd : decode (.command b) = .ok i) : executeFrame { rs := .C, payload := b } c = lcdCommand i c := by
  simp only [executeFrame, hm, Bool.false_eq_true, if_false, hd]

/-- Executing a data frame, the reference model not refused, is the data write (R74). -/
theorem executeFrame_data {c : Lcd} (b : Byte) (hm : c.offModel = false) :
    executeFrame { rs := .D, payload := b } c = lcdDataWrite b c := by
  simp only [executeFrame, hm, Bool.false_eq_true, if_false]

/-- Once the reference model is refused, a frame has any effect (R72). -/
theorem executeFrame_refused (f : Frame) {c : Lcd} (hm : c.offModel = true) : executeFrame f c = anyController c :=
  if_pos hm

theorem executeHeldFrame_eq {s : State} (f : Frame) (hm : s.lcd.offModel = false) :
    executeHeldFrame f s = .next { s with lcd := executeFrame f s.lcd } := by
  obtain ⟨r, b⟩ := f
  cases r with
  | D => rw [executeFrame_data b hm]; rfl
  | C =>
    cases hd : decode (.command b) with
    | ok i =>
      rw [executeFrame_command hm hd, ← exec_command (decodeCommand_isCommand hd)]
      simp only [executeHeldFrame, executeCommandByte, hd]
    | error e =>
      simp only [executeHeldFrame, executeCommandByte, hd, executeFrame, hm, Bool.false_eq_true, if_false]

theorem finishPending_none {c : Lcd} (h : c.pending = none) : finishPending c = c := by
  simp only [finishPending, h]

theorem finishPending_some {c : Lcd} {f : Frame} (h : c.pending = some f) :
    finishPending c = executeFrame f { c with pending := none } := by
  simp only [finishPending, h]

theorem finishPending_takeFrame {s : State} {f : Frame} (h : s.lcd.pending = some f) :
    finishPending s.lcd = executeFrame f (takeFrame s).lcd :=
  finishPending_some h

/-- The controller's turn finishes the frame it holds (R77). -/
theorem controllerTurn_eq (s : State) : controllerTurn s = .next { s with lcd := finishPending s.lcd } := by
  cases hp : s.lcd.pending with
  | none => rw [finishPending_none hp]; simp only [controllerTurn, hp]
  | some f =>
    rw [finishPending_takeFrame hp]
    simp only [controllerTurn, hp]
    by_cases hm : s.lcd.offModel = true
    · rw [if_pos hm, executeFrame_refused f (c := (takeFrame s).lcd) hm]
      rfl
    · rw [if_neg hm]
      exact executeHeldFrame_eq (s := takeFrame s) f (Bool.eq_false_of_not_eq_true hm)

/-- Settles O8. -/
theorem finishingAFrameExecutesItsInstruction : Obligations.FinishingAFrameExecutesItsInstruction := by
  unfold Obligations.FinishingAFrameExecutesItsInstruction
  intro s
  refine ⟨fun ht => ?_, fun hc hb => (answered_clear_lcd hb).2 hc, fun f hp => finishPending_some hp,
    fun b i hm hd => ?_⟩
  · exact (step_controller ht).trans (controllerTurn_eq _)
  · rw [executeFrame_command hm hd, exec_command (decodeCommand_isCommand hd)]

/-! ### The address counter and the window -/

/-- The implemented cells in numbers (R63). -/
theorem implemented_iff (n : Flag) (a : Nat) :
    Memory.implemented n a = true ↔ if n = 1 then a ≤ 0x27 ∨ 0x40 ≤ a ∧ a ≤ 0x67 else a ≤ 0x4F := by
  unfold Memory.implemented
  split <;> simp

/-- From an implemented cell AC moves as R64 says, whatever the free value. -/
theorem acNext_moved {n : Flag} {a : BitVec 7} (up : Bool) (free : BitVec 7)
    (h : Memory.implemented n a.toNat = true) : AcMoved n up a (acNext n a up free) := by
  have hle : a.toNat ≤ 0x67 := by
    have := (implemented_iff n a.toNat).1 h
    split at this <;> omega
  have hsucc : (a + 1).toNat = a.toNat + 1 := by bv_omega
  have hpred : a ≠ 0 → (a - 1).toNat = a.toNat - 1 := fun _ => by bv_omega
  simp only [acNext, AcMoved, h, Bool.not_true, Bool.false_eq_true, if_false]
  split_ifs
  · rfl
  · rfl
  · exact hsucc
  · rfl
  · rfl
  · exact hpred ‹_›
  · rfl
  · exact hsucc
  · rfl
  · exact hpred ‹_›

/-- A move from an implemented cell ends at one: the rows are closed under R64's wraps. -/
theorem implemented_of_acMoved {n : Flag} {up : Bool} {a b : BitVec 7} (h : Memory.implemented n a.toNat = true)
    (hm : AcMoved n up a b) : Memory.implemented n b.toNat = true := by
  rw [implemented_iff] at h ⊢
  unfold AcMoved at hm
  split_ifs at * <;> bv_omega

/-- A move of the window moves it (R70). -/
theorem moveWindow_window_ne (rl : Flag) (c : Lcd) : (moveWindow rl c).window ≠ c.window := by
  simp only [moveWindow]
  split <;> omega

/-- Settles O41. -/
theorem cursorShiftStepsTheAddress : Obligations.CursorShiftStepsTheAddress := by
  unfold Obligations.CursorShiftStepsTheAddress
  intro s sc rl
  refine ⟨_, exec_command rfl s, rfl, ?_⟩
  simp only [lcdCommand, lcdShift]
  by_cases hsc : sc = 0
  · rw [if_pos hsc]
    refine ⟨rfl, fun h1 => ?_, fun _ => ⟨rfl, rfl⟩, fun _ hi => ?_⟩
    · exact absurd (hsc.symm.trans h1) (by decide)
    · have hm := acNext_moved (rl == 1) (Config.anyBits 7 s.lcd.fresh) hi
      exact ⟨implemented_of_acMoved hi hm, hm⟩
  · rw [if_neg hsc]
    exact ⟨rfl, fun _ => ⟨rfl, rfl, moveWindow_window_ne rl _⟩, fun h0 => absurd h0 hsc, fun h0 => absurd h0 hsc⟩

/-! ### Data writes and data reads -/

/-- The window shifts exactly with `SH = 1`, and nothing else but the free values' counter changes (R74). -/
theorem shiftWindow_eq (c : Lcd) :
    ∃ w f, shiftWindow c = { c with window := w, fresh := f } ∧ (c.shift = 1 ↔ w ≠ c.window) := by
  by_cases h : c.shift = 1
  · refine ⟨_, _, if_pos h, fun _ => moveWindow_window_ne _ c, fun _ => h⟩
  · exact ⟨_, _, if_neg h, fun hs => absurd hs h, fun hw => absurd rfl hw⟩

/-- A data write with AC at an implemented cell (R74). -/
theorem lcdDataWrite_implemented {c : Lcd} (b : Byte) (h : Memory.implemented c.n c.ac.toNat = true) :
    ∃ w f, lcdDataWrite b c =
        { c with
          ddram := Memory.write c.ddram c.ac.toNat b
          ac := acNext c.n c.ac (c.incr == 1) (Config.anyBits 7 c.fresh)
          rdok := false
          window := w
          fresh := f } ∧
      (c.shift = 1 ↔ w ≠ c.window) := by
  have hs : storeGlyph b c = { c with ddram := Memory.write c.ddram c.ac.toNat b } := if_pos h
  obtain ⟨w, f, he, hw⟩ := shiftWindow_eq (moveAc (c.incr == 1) { c with ddram := Memory.write c.ddram c.ac.toNat b })
  refine ⟨w, f, ?_, hw⟩
  rw [lcdDataWrite, hs, he]
  rfl

theorem Memory.read_write {m : List Host.Cell} (h : Memory.wf m) (a b : Nat) (v : Byte) :
    Memory.read (Memory.write m a v) b = if b = a then v else Memory.read m b := by
  split
  case isTrue hb => rw [hb, Memory.read_write_same h]
  case isFalse hb => exact Memory.read_write_other hb

/-- Settles O44. -/
theorem dataFrameStoresAtTheAddress : Obligations.DataFrameStoresAtTheAddress := by
  unfold Obligations.DataFrameStoresAtTheAddress
  intro s b ht hm hwf hp hi
  obtain ⟨w, f, he, hw⟩ := lcdDataWrite_implemented (c := (takeFrame s).lcd) b hi
  have hl := (finishPending_takeFrame hp).trans ((executeFrame_data (c := (takeFrame s).lcd) b hm).trans he)
  refine ⟨_, (step_controller ht).trans (controllerTurn_eq _), rfl, ?_⟩
  simp only [hl]
  exact ⟨rfl, acNext_moved _ _ hi, hw, fun a => Memory.read_write hwf _ a b⟩

/-- READ with a clear draw, from the ready, initialised block: RESP and the controller are what the reference
controller's answer makes them, once it has finished its frame (R131, R75, R76). -/
theorem exec_read_reference {s : State} (r : Rs) (ha : s.Accepting) (hq : s.Quiet 1)
    (hc : s.params.controller = .reference) :
    ∃ t, exec (.read r) s = .next t ∧
      (t.regs.resp, t.lcd) = referenceAnswer r (s.drawAt 1) (finishPending s.lcd) := by
  obtain ⟨t, u, hrun, hu, -, hul, ht, hacc, hlcd⟩ :=
    runSeq_busRead (s := { s with reql := requestBits (.read r) }) r (hq 0 Nat.one_pos)
  have hregs := (ht.finished (decode_requestBits (i := .read r) rfl nofun)).2
  have hexec : exec (.read r) s = .next { commitRequest t with seq := [] } := by
    rw [← runSeq_commit, ← hrun, ← request_accepting ha]
    rfl
  have hans : referenceAnswer r (s.drawAt 1) (finishPending s.lcd) = (u.answer r, u.lcdAnswered r) := by
    have hcu : u.params.controller = .reference := (congrArg Params.controller hu.params).trans hc
    have hd : u.drawAt 0 = s.drawAt 1 := hu.draws 0
    simp only [State.answer, State.lcdAnswered, hcu, hd, hul hc]
  refine ⟨_, hexec, ?_⟩
  rw [hans, ← hacc, ← hlcd]
  exact Prod.ext (congrArg Regs.resp hregs) rfl

/-- Settles O45. -/
theorem readDataReturnsTheCell : Obligations.ReadDataReturnsTheCell := by
  unfold Obligations.ReadDataReturnsTheCell
  intro s ha hq hc hp hm hi
  obtain ⟨t, he, hr⟩ := exec_read_reference .D ha hq hc
  rw [finishPending_none hp] at hr
  have hd : referenceAnswer .D (s.drawAt 1) s.lcd = (dataReadValue (s.drawAt 1) s.lcd, lcdDataRead s.lcd) :=
    if_neg (by rw [hm]; exact Bool.false_ne_true)
  obtain ⟨hresp, hlcd⟩ := Prod.mk.inj (hr.trans hd)
  refine ⟨t, he, fun hok => ?_, ?_, ?_⟩
  · rw [hresp, dataReadValue, hok, hi]
    rfl
  · rw [hlcd]
    exact acNext_moved _ _ hi
  · rw [hlcd]
    rfl

/-! ### The modes, clear and home -/

/-- Settles O40. -/
theorem controllerSetsItsModes : Obligations.ControllerSetsItsModes := by
  unfold Obligations.ControllerSetsItsModes
  intro s x y z a
  exact ⟨⟨_, exec_command rfl s, rfl, rfl⟩, ⟨_, exec_command rfl s, rfl, rfl⟩, ⟨_, exec_command rfl s, rfl, rfl⟩,
    ⟨_, exec_command rfl s, rfl, rfl⟩⟩

/-- Settles O39. -/
theorem controllerClearsAndHomes : Obligations.ControllerClearsAndHomes := by
  unfold Obligations.ControllerClearsAndHomes
  intro s
  exact ⟨⟨_, exec_command rfl s, rfl, rfl, Memory.read_clear s.lcd.n s.lcd.ddram⟩, ⟨_, exec_command rfl s, rfl, rfl⟩⟩

/-! ### Set CGRAM address -/

/-- A frame sets the CGRAM address when it writes a byte from 0x40 to 0x7F to `C` (R72). -/
theorem setsCgram_iff (f : Frame) :
    f.setsCgram = true ↔ f.rs = .C ∧ 0x40 ≤ f.payload.toNat ∧ f.payload.toNat < 0x80 := by
  have hb : f.payload.extractLsb' 6 2 = 1 ↔ 0x40 ≤ f.payload.toNat ∧ f.payload.toNat < 0x80 := by
    rw [← BitVec.toNat_inj, BitVec.extractLsb'_toNat, Nat.shiftRight_eq_div_pow]
    change f.payload.toNat / 64 % 4 = 1 ↔ _
    omega
  rw [Frame.setsCgram, Bool.and_eq_true, beq_iff_eq, beq_iff_eq, hb]

/-- Settles O42. -/
theorem setCgramRefusesTheReferenceModel : Obligations.SetCgramRefusesTheReferenceModel := by
  unfold Obligations.SetCgramRefusesTheReferenceModel
  refine ⟨fun s a => ⟨_, exec_command rfl s, rfl, rfl, rfl⟩, fun f c => ⟨rfl, ?_⟩, fun s r hc hm => ?_⟩
  · rw [latchIn_offModel, Bool.or_eq_true, setsCgram_iff]
  · rw [State.answer, hc]
    exact (referenceAnswer_offModel r _ hm).1

/-! ### The busy check -/

/-- A status byte in numbers: BF, then AC (R76). -/
theorem statusByte_toNat (bf : Bool) (ac : BitVec 7) :
    (BitVec.ofBool bf ++ ac).toNat = (if bf then 0x80 else 0) + ac.toNat := by
  rw [toNat_append_eq_add]
  cases bf <;> rfl

/-- While the draw keeps a held frame unfinished, the answer is `{1, AC}` and nothing changes (R76, R77). -/
theorem referenceStatus_busy {d : Byte} {c : Lcd} (hm : c.offModel = false) (hd : d.getLsbD 7 = true)
    (hp : c.pending ≠ none) :
    (referenceStatus d c).1.toNat = 0x80 + c.ac.toNat ∧ (referenceStatus d c).2 = c := by
  simp only [referenceStatus, hd, if_true, hm, Bool.false_eq_true, if_false, statusByte_toNat,
    Option.isSome_iff_ne_none.2 hp, and_self]

/-- Once the frame may finish, or with none held, the answer is `{0, AC}` of the controller that has finished it. -/
theorem referenceStatus_finished {d : Byte} {c : Lcd} (h : d.getLsbD 7 = false ∨ c.pending = none) :
    (referenceStatus d c).2 = finishPending c ∧
      ((finishPending c).offModel = false → (referenceStatus d c).1.toNat = (finishPending c).ac.toNat) := by
  have hfin : (if d.getLsbD 7 then c else finishPending c) = finishPending c := by
    rcases h with hd | hp
    · rw [hd]; rfl
    · rw [finishPending_none hp, ite_self]
  simp only [referenceStatus, hfin]
  cases hm : (finishPending c).offModel with
  | true => exact ⟨rfl, nofun⟩
  | false =>
    refine ⟨rfl, fun _ => ?_⟩
    rw [if_neg Bool.false_ne_true, finishPending_pending, statusByte_toNat]
    exact Nat.zero_add _

/-- Settles O18. -/
theorem referencePollAnswersBusyAndAddress : Obligations.ReferencePollAnswersBusyAndAddress := by
  unfold Obligations.ReferencePollAnswersBusyAndAddress
  intro s hc hm
  simp only [State.answer, State.lcdAnswered, hc, referenceAnswer]
  unfold AnswersStatus
  split
  case isTrue hb => exact referenceStatus_busy hm hb.1 hb.2
  case isFalse hb =>
    rw [not_and_or, not_not, Bool.not_eq_true] at hb
    obtain ⟨hfin, hans⟩ := referenceStatus_finished hb
    rw [hfin]
    exact ⟨rfl, hans⟩

/-! ### Power-up -/

/-- Settles O58. -/
theorem bootStepsLeaveThePowerOnState : Obligations.BootStepsLeaveThePowerOnState := by
  unfold Obligations.BootStepsLeaveThePowerOnState
  intro s
  refine ⟨fun ht => ?_, fun met ht => ?_, fun ht => ?_⟩
  · rw [step, ht]; rfl
  · exact ⟨_, by rw [step, ht]; rfl, rfl⟩
  · refine ⟨_, by rw [step, ht]; rfl, fun _ => rfl, rfl, rfl, rfl, rfl, rfl, rfl, rfl, rfl, rfl, ?_⟩
    show (Lcd.booted s.params.busMode).dl = _
    cases s.params.busMode <;> rfl

end Sys2Proof.Machine
end

section
/-! PROOFS. The command a byte names (R65), and nibble steering (R53). -/
namespace Sys2Proof

/-! ### The class of a command byte -/

/-- The place of the bit that names a command byte's class (R65). -/
def commandBit : Instr → Option Nat
  | .cmdClear => some 0
  | .cmdHome => some 1
  | .cmdEntry _ _ => some 2
  | .cmdDisplay _ _ _ => some 3
  | .cmdShift _ _ => some 4
  | .cmdFunctionSet _ _ _ => some 5
  | .cmdSetCgram _ => some 6
  | .cmdSetDdram _ => some 7
  | _ => none

/-- A byte whose highest set bit is the `k`-th is a command of that bit's class (R65). -/
theorem decode_command_of_highestBit {c : Byte} {k : Nat} (hlo : 2 ^ k ≤ c.toNat) (hhi : c.toNat < 2 ^ (k + 1)) :
    ∃ i, decode (.command c) = .ok i ∧ commandBit i = some k := by
  have hset : c.getLsbD k = true := by
    rw [← BitVec.testBit_toNat]
    exact Nat.testBit_of_two_pow_le_and_two_pow_add_one_gt hlo hhi
  have hclear : ∀ j, k < j → c.getLsbD j = false := fun j hj => by
    rw [← BitVec.testBit_toNat]
    exact Nat.testBit_lt_two_pow (hhi.trans_le (Nat.pow_le_pow_right Nat.two_pos hj))
  have hk : k < 8 := (Nat.pow_lt_pow_iff_right Nat.one_lt_two).1 (hlo.trans_lt c.isLt)
  interval_cases k <;>
    simp only [decode, decodeCommand, hset, hclear, Nat.reduceLT, Bool.false_eq_true, if_true, if_false] <;>
    exact ⟨_, rfl, rfl⟩

/-- Every byte but 0x00 is a command, of the class its highest set bit names (R65). -/
theorem decode_command_of_ne_zero {c : Byte} (hc : c ≠ 0) :
    ∃ i k, decode (.command c) = .ok i ∧ commandBit i = some k ∧ 2 ^ k ≤ c.toNat ∧ c.toNat < 2 ^ (k + 1) := by
  have hlo : 2 ^ Nat.log 2 c.toNat ≤ c.toNat := Nat.pow_log_le_self 2 fun h0 => hc (BitVec.eq_of_toNat_eq h0)
  have hhi : c.toNat < 2 ^ (Nat.log 2 c.toNat + 1) := Nat.lt_pow_succ_log_self Nat.one_lt_two _
  obtain ⟨i, hd, hi⟩ := decode_command_of_highestBit hlo hhi
  exact ⟨i, _, hd, hi, hlo, hhi⟩

/-- Only 0x00 is no command (R65). -/
theorem decode_command_error_iff (c : Byte) : decode (.command c) = .error .noCommand ↔ c = 0 := by
  refine ⟨fun he => by_contra fun hc => ?_, fun hc => hc ▸ rfl⟩
  obtain ⟨i, -, hd, -⟩ := decode_command_of_ne_zero hc
  cases hd.symm.trans he

/-- The commands of a class are the bytes whose highest set bit names it (R65). -/
theorem decode_command_iff (c : Byte) (k : Nat) :
    2 ^ k ≤ c.toNat ∧ c.toNat < 2 ^ (k + 1) ↔ ∃ i, decode (.command c) = .ok i ∧ commandBit i = some k := by
  refine ⟨fun h => decode_command_of_highestBit h.1 h.2, fun ⟨i, hd, hi⟩ => ?_⟩
  have hc : c ≠ 0 := by
    rintro rfl
    cases hd
  obtain ⟨j, l, hd', hj, hrange⟩ := decode_command_of_ne_zero hc
  obtain rfl : i = j := Except.ok.inj (hd.symm.trans hd')
  obtain rfl : k = l := Option.some.inj (hi.symm.trans hj)
  exact hrange

/-- A range of bytes `q` is the commands `p` describes when it is a class's range and `p` is that class. -/
theorem range_iff_command {c : Byte} {q p : Prop} (k : Nat) (hq : q ↔ 2 ^ k ≤ c.toNat ∧ c.toNat < 2 ^ (k + 1))
    (hp : ∀ i, decode (.command c) = .ok i → commandBit i = some k → p)
    (hp' : p → ∃ i, decode (.command c) = .ok i ∧ commandBit i = some k) : q ↔ p :=
  hq.trans ((decode_command_iff c k).trans ⟨fun ⟨i, hd, hi⟩ => hp i hd hi, hp'⟩)

/-- Settles O4: each class's range of bytes in numbers, against the operands its constructor takes. -/
theorem commandByteNamedByHighestBit : Obligations.CommandByteNamedByHighestBit := by
  unfold Obligations.CommandByteNamedByHighestBit
  intro c
  have hlt := c.isLt
  refine ⟨decode_command_error_iff c, ?_, ?_, ?_, ?_, ?_, ?_, ?_, ?_⟩
  · exact range_iff_command 0 (by bv_omega) (fun i hd hi => by cases i <;> cases hi; exact hd)
      (fun hd => ⟨_, hd, rfl⟩)
  · exact range_iff_command 1 (by bv_omega) (fun i hd hi => by cases i <;> cases hi; exact hd)
      (fun hd => ⟨_, hd, rfl⟩)
  · exact range_iff_command 2 (by omega) (fun i hd hi => by cases i <;> cases hi; exact ⟨_, _, hd⟩)
      (fun ⟨_, _, hd⟩ => ⟨_, hd, rfl⟩)
  · exact range_iff_command 3 (by omega) (fun i hd hi => by cases i <;> cases hi; exact ⟨_, _, _, hd⟩)
      (fun ⟨_, _, _, hd⟩ => ⟨_, hd, rfl⟩)
  · exact range_iff_command 4 (by omega) (fun i hd hi => by cases i <;> cases hi; exact ⟨_, _, hd⟩)
      (fun ⟨_, _, hd⟩ => ⟨_, hd, rfl⟩)
  · exact range_iff_command 5 (by omega) (fun i hd hi => by cases i <;> cases hi; exact ⟨_, _, _, hd⟩)
      (fun ⟨_, _, _, hd⟩ => ⟨_, hd, rfl⟩)
  · exact range_iff_command 6 (by omega) (fun i hd hi => by cases i <;> cases hi; exact ⟨_, hd⟩)
      (fun ⟨_, hd⟩ => ⟨_, hd, rfl⟩)
  · exact range_iff_command 7 (by omega) (fun i hd hi => by cases i <;> cases hi; exact ⟨_, hd⟩)
      (fun ⟨_, hd⟩ => ⟨_, hd, rfl⟩)

end Sys2Proof

namespace Sys2Proof.Machine

/-! ### Nibble steering -/

theorem join_toNat (lo hi : Nibble) : (join lo hi).toNat = 16 * hi.toNat + lo.toNat := by
  rw [join, toNat_append_eq_add]
  omega

/-- Settles O6. -/
theorem splitAndJoinAreInverse : Obligations.SplitAndJoinAreInverse := by
  unfold Obligations.SplitAndJoinAreInverse
  refine ⟨fun b => ⟨?_, ?_, join_split_byte b⟩, fun lo hi => ⟨?_, ?_⟩⟩
  · simp [split]
  · have := b.isLt
    simp [split, Nat.shiftRight_eq_div_pow]
    omega
  · exact join_toNat lo hi
  · refine Prod.ext (BitVec.eq_of_toNat_eq ?_) (split_join_high lo hi)
    rw [split, BitVec.extractLsb'_toNat, join_toNat, Nat.shiftRight_zero]
    change (16 * hi.toNat + lo.toNat) % 16 = lo.toNat
    omega

end Sys2Proof.Machine
end

section
/-! PROOFS. The encoding, both ways: what every encoded word decodes to and which words are legal; and the requests
that send one byte (30_encoding.md). -/
namespace Sys2Proof

open Machine

/-! ### Command bytes, whatever the bits R97 marks x -/

theorem decode_cmdHome (x : BitVec 1) : decode (.command (1#7 ++ x)) = .ok .cmdHome := by
  simp only [decode, decodeCommand, BitVec.getLsbD_append]
  simp

theorem decode_cmdEntry (i s : Flag) : decode (.command (1#6 ++ (i ++ s))) = .ok (.cmdEntry i s) := by
  simp only [decode, decodeCommand, BitVec.getLsbD_append, BitVec.extractLsb'_append_eq_ite]
  simp

theorem decode_cmdDisplay (d c b : Flag) :
    decode (.command (1#5 ++ (d ++ (c ++ b)))) = .ok (.cmdDisplay d c b) := by
  simp only [decode, decodeCommand, BitVec.getLsbD_append, BitVec.extractLsb'_append_eq_ite]
  simp

theorem decode_cmdShift (sc rl : Flag) (x : BitVec 2) :
    decode (.command (1#4 ++ (sc ++ (rl ++ x)))) = .ok (.cmdShift sc rl) := by
  simp only [decode, decodeCommand, BitVec.getLsbD_append, BitVec.extractLsb'_append_eq_ite]
  simp

theorem decode_cmdFunctionSet (dl n f : Flag) (x : BitVec 2) :
    decode (.command (1#3 ++ (dl ++ (n ++ (f ++ x))))) = .ok (.cmdFunctionSet dl n f) := by
  simp only [decode, decodeCommand, BitVec.getLsbD_append, BitVec.extractLsb'_append_eq_ite]
  simp

theorem decode_cmdSetCgram (a : BitVec 6) : decode (.command (1#2 ++ a)) = .ok (.cmdSetCgram a) := by
  simp only [decode, decodeCommand, BitVec.getLsbD_append, BitVec.extractLsb'_append_eq_ite]
  simp

theorem decode_cmdSetDdram (a : BitVec 7) : decode (.command (1#1 ++ a)) = .ok (.cmdSetDdram a) := by
  simp only [decode, decodeCommand, BitVec.getLsbD_append, BitVec.extractLsb'_append_eq_ite]
  simp

/-! ### Decoding an encoding -/

theorem encode_request {i : Instr} (hi : i.isRequest = true) : encode i = .request (requestBits i) := by
  cases i <;> cases hi <;> rfl

/-- A well-formed request's word decodes to it, LINE's among them (R94, R157). -/
theorem decode_requestBits_wellFormed {i : Instr} (hi : i.isRequest = true) (hw : WellFormed i) :
    decode (.request (requestBits i)) = .ok i := by
  by_cases hl : ∃ n, i = .line n
  · obtain ⟨n, rfl⟩ := hl
    obtain rfl | rfl : n = 1 ∨ n = 2 := hw <;> rfl
  · exact decode_requestBits hi (not_exists.1 hl)

/-- Settles O1: its word or byte is one of the rows above, LINE's operand read back from its one bit. -/
theorem decodeOfEncodeIsIdentity : Obligations.DecodeOfEncodeIsIdentity := by
  unfold Obligations.DecodeOfEncodeIsIdentity
  intro i hw
  cases i with
  | cmdClear => rfl
  | cmdHome => exact decode_cmdHome 0
  | cmdEntry i s => exact decode_cmdEntry i s
  | cmdDisplay d c b => exact decode_cmdDisplay d c b
  | cmdShift sc rl => exact decode_cmdShift sc rl 0
  | cmdFunctionSet dl n f => exact decode_cmdFunctionSet dl n f 0
  | cmdSetCgram a => exact decode_cmdSetCgram a
  | cmdSetDdram a => exact decode_cmdSetDdram a
  | _ =>
    rw [encode_request rfl]
    exact decode_requestBits_wellFormed rfl hw

/-! ### Legal request words -/

theorem flagOfRs_rsOfFlag (a : Flag) : flagOfRs (rsOfFlag a) = a := by revert a; decide

theorem guardZero_eq_ok_iff {ok : Bool} {i j : Instr} : guardZero ok i = .ok j ↔ ok = true ∧ i = j := by
  cases ok <;> simp [guardZero]

theorem requestWord_toNat (o : BitVec 4) (b a : Flag) (g : Byte) :
    (requestWord o b a g).toNat = 0x1000 * o.toNat + 0x200 * b.toNat + 0x100 * a.toNat + g.toNat := by
  simp only [requestWord, toNat_append_eq_add, BitVec.toNat_zero]
  omega

/-- A word whose RSV is 0 is made of its other fields (R91). -/
theorem requestWord_of_fields {w : Word16} (h : rsvOf w = 0) :
    requestWord (opcOf w) (bOf w) (aOf w) (argOf w) = w := by
  have hrsv : (rsvOf w).toNat = 0 := by rw [h]; rfl
  refine BitVec.eq_of_toNat_eq ?_
  rw [requestWord_toNat]
  simp only [opcOf, rsvOf, bOf, aOf, argOf, BitVec.extractLsb'_toNat, Nat.shiftRight_eq_div_pow] at hrsv ⊢
  omega

theorem lineOperandOk_flag (a : Flag) : LineOperandOk (a.toNat + 1) := by revert a; decide

/-- A request word decodes only to a well-formed request whose encoding it is: in each row of the map the opcode is that
row's, the guard fixes the must-be-zero fields, and the others are the operands (R94). -/
theorem encode_of_decodeRequest {w : Word16} {i : Instr} (h : decodeRequest w = .ok i) :
    WellFormed i ∧ encode i = .request w := by
  simp only [decodeRequest] at h
  split at h
  · cases h
  next hr =>
  have hopc : opcOf w = BitVec.ofNat 4 (opcOf w).toNat := by simp
  rw [← requestWord_of_fields (not_not.1 hr), hopc]
  split at h
  case h_14 => cases h
  all_goals
    obtain ⟨hz, rfl⟩ := guardZero_eq_ok_iff.1 h
    simp_all [encode, flagOfRs_rsOfFlag, lineOperandOk_flag]

/-- Settles O2: the decoder's rows inverted one by one. -/
theorem legalRequestWordHasOneMeaning : Obligations.LegalRequestWordHasOneMeaning := by
  unfold Obligations.LegalRequestWordHasOneMeaning
  intro w i hd
  obtain ⟨hw, he⟩ := encode_of_decodeRequest hd
  exact ⟨hw, decodeRequest_isRequest hd, he⟩

/-- The legal words, row by row: each row's guard is its list of must-be-zero fields (R93, R95). -/
theorem decodeRequest_isOk_iff (w : Word16) :
    (∃ i, decodeRequest w = .ok i) ↔
      1 ≤ (opcOf w).toNat ∧ (opcOf w).toNat ≤ 0xD ∧ rsvOf w = 0 ∧
        ((opcOf w).toNat ∉ [2, 3, 7, 8, 9, 0xB, 0xD] → aOf w = 0) ∧ ((opcOf w).toNat ≠ 9 → bOf w = 0) ∧
        ((opcOf w).toNat ∉ [2, 0xA, 0xC, 0xD] → argOf w = 0) := by
  have hlt := (opcOf w).isLt
  rw [decodeRequest]
  generalize (opcOf w).toNat = opc at hlt ⊢
  by_cases hr : rsvOf w = 0
  · rw [if_neg (not_not.2 hr)]
    interval_cases opc <;> simp [guardZero_eq_ok_iff, hr, and_assoc, and_left_comm, and_comm]
  · rw [if_pos hr]
    exact ⟨nofun, fun ⟨_, _, hr', _⟩ => absurd hr' hr⟩

/-- A host write decodes when its upper half is 0 and its lower half is a request word (R95 (c), R96). -/
theorem decodeWrite_isOk_iff (w : Word32) :
    (∃ i, decodeWrite w = .ok i) ↔
      w.extractLsb' 16 16 = 0 ∧ ∃ i, decodeRequest (w.extractLsb' 0 16) = .ok i := by
  rw [decodeWrite]
  split
  next hu => exact ⟨nofun, fun h => absurd h.1 hu⟩
  next hu => rw [not_not.1 hu, eq_self_iff_true, true_and]

/-- Settles O3: the upper half apart, row by row of the opcode. -/
theorem illegalExactlyAsRuled : Obligations.IllegalExactlyAsRuled := by
  unfold Obligations.IllegalExactlyAsRuled
  intro w
  rw [decodeWrite_isOk_iff, decodeRequest_isOk_iff]

/-! ### The words of the opcode table -/

/-- The number whose bits are a well-formed request's fields decodes to it (R91). -/
theorem decode_request_ofNat {i : Instr} {o : BitVec 4} {b a : Flag} {g : Byte} {n : Nat} (hi : i.isRequest = true)
    (hw : WellFormed i) (he : requestBits i = requestWord o b a g)
    (hn : n = 0x1000 * o.toNat + 0x200 * b.toNat + 0x100 * a.toNat + g.toNat) :
    decode (.request (BitVec.ofNat 16 n)) = .ok i := by
  rw [hn, ← requestWord_toNat, ← he, BitVec.ofNat_toNat, BitVec.setWidth_eq]
  exact decode_requestBits_wellFormed hi hw

/-- The number whose bits make up a command byte decodes to what the byte does. -/
theorem decode_command_ofNat {c : Byte} {i : Instr} {n : Nat} (hd : decode (.command c) = .ok i) (hn : n = c.toNat) :
    decode (.command (BitVec.ofNat 8 n)) = .ok i := by
  rw [hn, BitVec.ofNat_toNat, BitVec.setWidth_eq]
  exact hd

/-- Settles O5: each operand's word is the fields or the leading bit the rows above decode. -/
theorem wordsOfTheSpecDecode : Obligations.WordsOfTheSpecDecode := by
  unfold Obligations.WordsOfTheSpecDecode
  refine ⟨⟨rfl, rfl, rfl, rfl, rfl, rfl⟩,
    fun b => ⟨decode_request_ofNat (i := .write .C b) rfl trivial rfl ?_,
      decode_request_ofNat (i := .write .D b) rfl trivial rfl ?_,
      decode_request_ofNat (i := .setaddr b) rfl trivial rfl ?_,
      decode_request_ofNat (i := .feed b) rfl trivial rfl ?_,
      fun l => decode_request_ofNat (i := .ldcur l b) rfl trivial rfl ?_⟩,
    ⟨rfl, rfl⟩,
    fun a b => ⟨decode_request_ofNat (i := .entry a) rfl trivial rfl ?_,
      decode_request_ofNat (i := .display a) rfl trivial rfl ?_,
      decode_request_ofNat (i := .configure a b) rfl trivial rfl ?_⟩,
    ⟨rfl, rfl, rfl⟩,
    fun a b c x => ⟨decode_command_ofNat (decode_cmdEntry a b) ?_, decode_command_ofNat (decode_cmdDisplay a b c) ?_,
      decode_command_ofNat (decode_cmdShift a b x) ?_, decode_command_ofNat (decode_cmdFunctionSet a b c x) ?_⟩,
    fun a => decode_command_ofNat (decode_cmdSetCgram a) ?_, fun a => decode_command_ofNat (decode_cmdSetDdram a) ?_⟩
  all_goals simp only [flagOfRs, toNat_append_eq_add, BitVec.ofNat_eq_ofNat, BitVec.toNat_ofNat] <;> omega

end Sys2Proof

namespace Sys2Proof.Machine

/-! ### The requests that send one byte -/

/-- A request that is one BusWrite, from the ready, initialised block with a clear draw: one busy check and the frame,
and its own updates (R120, R124, R125, R150). -/
theorem exec_busWrite {s : State} {i : Instr} {r : Rs} {b : Byte} (ha : s.Accepting) (hq : s.Quiet 1)
    (hd : decode (.request (requestBits i)) = .ok i)
    (he : exec i s = .next (request i (busWriteOps s.params.busMode r b) s)) :
    ∃ t v, exec i s = .next t ∧ s.ClearAnswer 0 v ∧ Finished i [.poll v, .wr r b] s t ∧
      t.regs = { commitOf s.params s.acc i s.regs with err := .ok } ∧ Delivered [] { rs := r, payload := b } s t := by
  have hclear : busyFlag (s.drawAt 0) = false := hq 0 Nat.one_pos
  obtain ⟨t, hrun, hmoves, hacc, hdraws, href⟩ :=
    runSeq_busWrite (s := { s with reql := requestBits i }) r b hclear
  obtain ⟨hfin, hregs⟩ := hmoves.finished hd
  rw [hacc] at hregs
  refine ⟨_, _, ?_, clearAnswer_zero hclear, hfin, hregs, hdraws, href⟩
  rw [he, request_accepting ha, hrun, runSeq_commit]

theorem entryByte_eq (inc : Flag) : entryByte inc = if inc = 1 then 0x06 else 0x04 := by revert inc; decide

theorem dispByte_eq (dispCb : BitVec 2) (on : Flag) :
    dispByte dispCb on = (if on = 1 then 0x0C else 0x08) ||| dispCb.setWidth 8 := by revert dispCb on; decide

/-- SETDD sets bit 7, whatever bit 7 of the address is (R103). -/
theorem setddByte_toNat (a : Byte) : (setddByte a).toNat = 0x80 + a.toNat % 0x80 := by revert a; decide

/-- Settles O21: each is one BusWrite of its own command byte. -/
theorem entryDisplaySetaddrSendOneCommand : Obligations.EntryDisplaySetaddrSendOneCommand := by
  unfold Obligations.EntryDisplaySetaddrSendOneCommand
  refine ⟨fun _ => rfl, fun s i c ha hq hic => ?_⟩
  rcases hic with ⟨inc, rfl, rfl⟩ | ⟨on, rfl, rfl⟩ | ⟨a, rfl, hc⟩
  · rw [← entryByte_eq]
    exact exec_busWrite ha hq (decode_requestBits (i := .entry inc) rfl nofun) rfl
  · rw [← dispByte_eq]
    exact exec_busWrite ha hq (decode_requestBits (i := .display on) rfl nofun) rfl
  · obtain rfl : c = setddByte a := BitVec.eq_of_toNat_eq (hc.trans (setddByte_toNat a).symm)
    exact exec_busWrite ha hq (decode_requestBits (i := .setaddr a) rfl nofun) rfl

end Sys2Proof.Machine
end

section
/-! PROOFS. Bus Transport (40_bus_transport.md): WRITE, READ and BUSY to their end, the busy wait in a block turn, and
what a bound on a turn does. -/
namespace Sys2Proof.Machine

/-! ### A bound on a turn -/

/-- No micro-operation looks at what remains of the sequence. -/
theorem micro_withSeq (op : MicroOp) (rest : List MicroOp) (s : State) :
    micro op { s with seq := rest } = { micro op s with seq := rest } := by
  cases op <;> rfl

/-- A turn performs the operations it is given, whatever `seq` held before it. -/
theorem runSeq_withSeq (q : Option Nat) (ops rest : List MicroOp) (s : State) :
    runSeq q ops { s with seq := rest } = runSeq q ops s := by
  induction ops generalizing q s with
  | nil => simp only [runSeq_nil]
  | cons op ops ih =>
    simp only [runSeq, micro_withSeq, ih]
    rfl

/-- Settles O38, by induction on the operations to come: the bound is used up here and the rest is still to come, a busy
check ends both turns here, or both go on with one operation less. -/
theorem quantumOnlyCutsTheTurn : Obligations.QuantumOnlyCutsTheTurn := by
  unfold Obligations.QuantumOnlyCutsTheTurn
  intro q ops
  induction ops generalizing q with
  | nil => exact fun s => .inl (by simp only [runSeq_nil])
  | cons op rest ih =>
    intro s
    by_cases hq : q = some 0
    · have hstop : runSeq q (op :: rest) s = { s with seq := op :: rest } := by rw [runSeq, if_pos hq]
      rw [hstop]
      exact .inr ⟨List.cons_ne_nil _ _, runSeq_withSeq none _ _ s⟩
    · by_cases hbusy : op = .pollTest ∧ busyFlag s.rxByte = true
      · exact .inl (by simp only [runSeq, if_neg hq, if_pos hbusy, reduceCtorEq, if_false])
      · have hgo : runSeq q (op :: rest) s = runSeq (q.map (· - 1)) rest (micro op s) := by
          rw [runSeq, if_neg hq, if_neg hbusy]
        have hgo' : runSeq none (op :: rest) s = runSeq none rest (micro op s) := by
          rw [runSeq, if_neg nofun, if_neg hbusy]
          rfl
        rw [hgo, hgo']
        exact ih _ _

/-! ### The busy wait in a block turn -/

theorem pollRoundOps_append_ne_nil (m : BusMode) (rest : List MicroOp) : pollRoundOps m ++ rest ≠ [] := by
  cases m <;> exact List.cons_ne_nil _ _

/-- A block turn of a running request goes on with what remains of it (R21). -/
theorem step_block {s : State} {q : Option Nat} {ops : List MicroOp} (ht : nextTurn s = .block) (hq : s.quantum = q)
    (hs : s.seq = ops) (hne : ops ≠ []) : step s = .next (runSeq q ops { s with turns := s.turns.tail }) := by
  subst hq hs
  have hr : ¬ ready { s with turns := s.turns.tail } = true := mt (ready_iff _).1 hne
  simp only [step, ht, takeTurn, blockTurn, if_neg hr]

/-- An unbounded block turn at the start of a round of the busy wait performs the round: after a clear answer it
goes on with the rest; after a busy one the request ends at the bound, and below it is back at the start of the round
(R125, R215). -/
theorem step_pollRound {s : State} {rest : List MicroOp} (ht : nextTurn s = .block) (hq : s.quantum = none)
    (hs : s.seq = pollRoundOps s.params.busMode ++ rest) :
    step s = .next
      (if busyFlag (s.answer .C) then
        if timedOut (pollState { s with turns := s.turns.tail }) then
          raiseError .busTimeout (pollState { s with turns := s.turns.tail })
        else { pollState { s with turns := s.turns.tail } with seq := pollRoundOps s.params.busMode ++ rest }
      else runSeq none rest (pollState { s with turns := s.turns.tail })) :=
  (step_block ht hq hs (pollRoundOps_append_ne_nil _ _)).trans
    (congrArg _ (runSeq_pollRound rest { s with turns := s.turns.tail }))

/-- What the controller answers, and how that leaves it, does not depend on whose turns are planned. -/
theorem State.answer_withTurns (r : Rs) (ts : List Turn) (s : State) :
    State.answer r { s with turns := ts } = s.answer r ∧
      State.lcdAnswered r { s with turns := ts } = s.lcdAnswered r := by
  simp only [State.answer, State.lcdAnswered, State.drawAt, and_self]

/-- A busy check, whatever it answers, takes one answer and records it; the controller is as its answer leaves it. -/
theorem busyCheck_moves (s : State) :
    Moves 1 [.poll (s.answer .C)] s (pollState s) ∧ (pollState s).acc = s.acc ∧ (pollState s).tx = s.tx ∧
      (pollState s).lcd = s.lcdAnswered .C :=
  ⟨⟨rfl, rfl, rfl, ⟨rfl, rfl, rfl, rfl, rfl, rfl, rfl⟩, State.drawAt_drawn s, rfl, ⟨rfl, rfl, rfl, rfl⟩⟩,
    rfl, rfl, rfl⟩

/-- The count after one more busy check (R37). -/
theorem pollCount_eq (s : State) :
    pollCount s = if s.params.busyTimeout = none then s.pollcnt else s.pollcnt + 1 := by
  unfold pollCount
  cases s.params.busyTimeout <;> rfl

/-- A busy check that does not bring the count to the bound does not time out (R215). -/
theorem timedOut_pollState_eq_false {s : State} (h : ∀ n, s.params.busyTimeout = some n → s.pollcnt + 1 ≠ n) :
    timedOut (pollState s) = false := by
  change (s.params.busyTimeout == some (pollCount s)) = false
  cases hn : s.params.busyTimeout with
  | none => rfl
  | some n =>
    have hne := h n hn
    simp only [pollCount, hn]
    simpa using hne.symm

/-- Settles O31: the round is performed and not timed out. -/
theorem busyAnswerRepeatsTheWait : Obligations.BusyAnswerRepeatsTheWait := by
  unfold Obligations.BusyAnswerRepeatsTheWait
  intro s rest ht hq hs hb hbound
  obtain ⟨hans, hlcd⟩ := State.answer_withTurns .C s.turns.tail s
  have hto := timedOut_pollState_eq_false (s := { s with turns := s.turns.tail }) hbound
  obtain ⟨m, -, -, hl⟩ := busyCheck_moves { s with turns := s.turns.tail }
  rw [hans] at m
  refine ⟨_, step_pollRound ht hq hs, ?_⟩
  rw [if_pos hb, hto]
  exact ⟨hs.symm, m.regs, m.reql, hl.trans hlcd, m.trace, pollCount_eq s⟩

/-- Settles O34: the rest goes on from the state after the busy check. -/
theorem clearAnswerGoesOnWithTheRequest : Obligations.ClearAnswerGoesOnWithTheRequest := by
  unfold Obligations.ClearAnswerGoesOnWithTheRequest
  intro s rest ht hq hs hb
  obtain ⟨hans, hlcd⟩ := State.answer_withTurns .C s.turns.tail s
  obtain ⟨m, hacc, htx, hl⟩ := busyCheck_moves { s with turns := s.turns.tail }
  rw [hans] at m
  obtain ⟨he, hrw, hdb, -⟩ := m.pins
  refine ⟨pollState { s with turns := s.turns.tail }, ?_, m.trace, m.regs, m.reql, htx, hacc, m.params, hl.trans hlcd,
    he, hrw, hdb, fun j => (m.draws j).trans (State.drawAt_congr rfl rfl _)⟩
  rw [step_pollRound ht hq hs, hb]
  rfl

/-! ### WRITE -/

/-- Settles O15: WRITE is one BusWrite, and its commit has no updates. -/
theorem writeSendsOneFrame : Obligations.WriteSendsOneFrame := by
  unfold Obligations.WriteSendsOneFrame
  intro s r b ha hq
  exact exec_busWrite ha hq (decode_requestBits (i := .write r b) rfl nofun) rfl

/-- The state a BusWrite with a clear draw leaves: the busy check's, with the byte written (R124). -/
theorem runSeq_busWrite_eq {s : State} (r : Rs) (b : Byte) (h : busyFlag (s.drawAt 0) = false) (rest : List MicroOp) :
    runSeq none (busWriteOps s.params.busMode r b ++ rest) s =
      runSeq none rest (writeState r (pollState { s with tx := b, pollcnt := 0 })) := by
  rw [busWriteOps, List.cons_append, List.append_assoc, runSeq_plain (by simp)]
  refine (runSeq_pollBusy (s := { s with tx := b }) h _).trans ?_
  refine (runSeq_straight (pollTest_notMem_rawWrite _ r) rest _).trans ?_
  exact congrArg (runSeq none rest) (runMicros_rawWrite r (pollState { s with tx := b, pollcnt := 0 }))

/-- The pins a WRITE with a clear draw leaves: those of its raw write, after those of its busy check (R126 to R129). -/
theorem exec_write_pins {s : State} (r : Rs) (b : Byte) (ha : s.Accepting) (hq : s.Quiet 1) :
    ∃ t, exec (.write r b) s = .next t ∧
      t.pins = pinsAfterWrite s.params.busMode r b (pinsAfterRead s.params.busMode .C (s.answer .C) s.pins) := by
  have hrun := runSeq_busWrite_eq (s := { s with reql := requestBits (.write r b) }) r b (hq 0 Nat.one_pos) [.commit]
  have hend := (request_accepting ha (.write r b) _).trans (hrun.trans (runSeq_commit _))
  exact ⟨_, congrArg Host.Outcome.next hend, rfl⟩

theorem rsLevel_eq_true_iff (r : Rs) : rsLevel r = true ↔ r = .D := by cases r <;> decide

/-- The halves of a byte in numbers (R53). -/
theorem split_toNat (b : Byte) : (split b).1.toNat = b.toNat % 16 ∧ (split b).2.toNat = b.toNat / 16 :=
  ⟨(splitAndJoinAreInverse.1 b).1, (splitAndJoinAreInverse.1 b).2.1⟩

/-- Settles O19: the latches after the raw write, by bus mode. -/
theorem writePutsTheByteOnThePins : Obligations.WritePutsTheByteOnThePins := by
  unfold Obligations.WritePutsTheByteOnThePins
  intro s r b ha hq
  obtain ⟨t, he, hp⟩ := exec_write_pins r b ha hq
  obtain ⟨hlo, hhi⟩ := split_toNat b
  refine ⟨t, he, ?_⟩
  rw [hp]
  refine ⟨rfl, rfl, rfl, rfl, rsLevel_eq_true_iff r, fun hm => ?_, fun hm => ?_⟩
  · simp only [pinsAfterWrite, hm, hlo, hhi]
    omega
  · simp only [pinsAfterWrite, hm]
    exact ⟨hlo, rfl⟩

/-! ### READ -/

/-- READ with a clear draw, from the ready, initialised block, whichever controller answers (R123, R131). -/
theorem exec_read {s : State} (r : Rs) (ha : s.Accepting) (hq : s.Quiet 1) :
    ∃ t v x, exec (.read r) s = .next t ∧ s.ClearAnswer 0 v ∧ Finished (.read r) [.poll v, .rd r x] s t ∧
      t.regs = { s.regs with resp := x, err := .ok } ∧
      (s.params.controller = .draws → x = s.drawAt 1 ∧ t.lcd = s.lcd) := by
  have hclear : busyFlag (s.drawAt 0) = false := hq 0 Nat.one_pos
  obtain ⟨t, u, hrun, hu, hdraws, -, hmoves, hacc, hlcd⟩ :=
    runSeq_busRead (s := { s with reql := requestBits (.read r) }) r hclear
  obtain ⟨hfin, hregs⟩ := hmoves.finished (decode_requestBits (i := .read r) rfl nofun)
  have hexec : exec (.read r) s = .next (request (.read r) (busReadOps s.params.busMode r) s) := rfl
  refine ⟨_, _, u.answer r, ?_, clearAnswer_zero hclear, hfin, hacc ▸ hregs, fun hc => ?_⟩
  · rw [hexec, request_accepting ha, hrun, runSeq_commit]
  · have hcu : u.params.controller = .draws := (congrArg Params.controller hu.params).trans hc
    have ha : u.answer r = u.drawAt 0 := by rw [State.answer, hcu]
    have hl : u.lcdAnswered r = u.lcd := by rw [State.lcdAnswered, hcu]
    exact ⟨ha.trans (hu.draws 0), hlcd.trans (hl.trans (hdraws hc))⟩

/-- A controller that holds no frame answers a read of `C` with `{0, AC}` and stays as it is (R76). -/
theorem referenceStatus_idle (d : Byte) {c : Lcd} (hp : c.pending = none) (hm : c.offModel = false) :
    (referenceStatus d c).1.toNat = c.ac.toNat ∧ (referenceStatus d c).2 = c := by
  obtain ⟨hfin, hans⟩ := referenceStatus_finished (d := d) (.inr hp)
  rw [finishPending_none hp] at hfin hans
  exact ⟨hans hm, hfin⟩

/-- Settles O16: of the reference controller the byte is its answer once it holds no frame. -/
theorem readReturnsTheAnswer : Obligations.ReadReturnsTheAnswer := by
  unfold Obligations.ReadReturnsTheAnswer
  intro s r ha hq
  obtain ⟨t, v, x, he, hv, hfin, hregs, hdraws⟩ := exec_read r ha hq
  have href (hc : s.params.controller = .reference) :
      (x, t.lcd) = referenceAnswer r (s.drawAt 1) (finishPending s.lcd) := by
    obtain ⟨t', he', hans⟩ := exec_read_reference r ha hq hc
    obtain rfl : t = t' := Host.Outcome.next.inj (he.symm.trans he')
    rwa [hregs] at hans
  refine ⟨t, v, x, he, hv, hfin, hregs, hdraws, href, fun hc hr hm => ?_⟩
  subst hr
  obtain ⟨hx, hl⟩ := Prod.mk.inj (href hc)
  obtain ⟨hans, hstay⟩ := referenceStatus_idle (s.drawAt 1) (finishPending_pending s.lcd) hm
  rw [hx, hl]
  exact ⟨hans, hstay⟩

/-! ### BUSY -/

/-- The state after BUSY's one busy check, whatever it answered (R132). -/
def busyState (s : State) : State := micro .pollOnce (readState s.params.busMode .C s)

theorem runSeq_busyOps (s : State) (rest : List MicroOp) :
    runSeq none (busyOps s.params ++ rest) s = runSeq none rest (busyState s) := by
  rw [busyOps, List.append_assoc, runSeq_straight (pollTest_notMem_rawRead _ _), runMicros_rawRead,
    List.singleton_append, runSeq_plain (by decide), busyState]

theorem busyState_acc (s : State) : (busyState s).acc = s.answer .C := readState_rxByte _ _ _

/-- BUSY takes one answer and records it as a POLL, whether it is busy or clear (R132). -/
theorem busyState_moves (s : State) : Moves 1 [.poll (s.answer .C)] s (busyState s) where
  trace := by rw [← busyState_acc s]; rfl
  regs := rfl
  reql := rfl
  around := ⟨rfl, rfl, rfl, rfl, rfl, rfl, rfl⟩
  draws j := State.drawAt_drawn s j
  reads := rfl
  pins := ⟨rfl, rfl, rfl, rfl⟩

/-- Settles O17: the byte is the controller's answer, and the controller is as its answer leaves it. -/
theorem busyReadsOnce : Obligations.BusyReadsOnce := by
  unfold Obligations.BusyReadsOnce
  intro s ha
  obtain ⟨hfin, hregs⟩ := (busyState_moves { s with reql := requestBits .busy }).finished
    (decode_requestBits (i := .busy) rfl nofun)
  rw [busyState_acc] at hregs
  have hexec : exec .busy s = .next (request .busy (busyOps s.params) s) := rfl
  have hrun := runSeq_busyOps { s with reql := requestBits .busy } [.commit]
  refine ⟨_, s.answer .C, ?_, hfin, hregs, fun hc => ?_, fun hc => ?_, fun hc hm => ?_⟩
  · rw [hexec, request_accepting ha, hrun, runSeq_commit]
  · exact ⟨by rw [State.answer, hc], show s.lcdAnswered .C = s.lcd by rw [State.lcdAnswered, hc]⟩
  · change (s.answer .C, s.lcdAnswered .C) = _
    rw [State.answer, State.lcdAnswered, hc]
  · exact referencePollAnswersBusyAndAddress s hc hm

end Sys2Proof.Machine
end

section
/-! PROOFS. The Command/Data Protocol requests that write a register (41_command_protocol.md): CLEAR, HOME, CONFIGURE
and LINE are one BusWrite each, followed by their own commit. -/
namespace Sys2Proof.Machine

/-- Settles O20: each is one BusWrite of its own byte, and both have the one commit that resets CUR. -/
theorem clearAndHomeResetTheCursor : Obligations.ClearAndHomeResetTheCursor := by
  unfold Obligations.ClearAndHomeResetTheCursor
  intro s i c ha hq hic
  rcases hic with ⟨rfl, rfl⟩ | ⟨rfl, rfl⟩
  · exact exec_busWrite ha hq (decode_requestBits (i := .clear) rfl nofun) rfl
  · exact exec_busWrite ha hq (decode_requestBits (i := .home) rfl nofun) rfl

/-- The function-set byte is the one of R100's table, whose fields do not overlap. -/
theorem fsByte_toNat (m : BusMode) (l f : Flag) : (fsByte m l f).toNat = functionSetValue m l f := by
  revert l f
  cases m <;> decide

/-- Settles O22: one BusWrite of the function-set byte, and the commit of both fields. -/
theorem configureSetsBothFields : Obligations.ConfigureSetsBothFields := by
  unfold Obligations.ConfigureSetsBothFields
  intro s l f ha hq
  obtain ⟨t, v, he, hv, hfin, hregs, hlcd⟩ :=
    exec_busWrite ha hq (decode_requestBits (i := .configure l f) rfl nofun) rfl
  exact ⟨t, v, fsByte s.params.busMode l f, he, hv, fsByte_toNat _ l f, hfin, hregs, hlcd⟩

/-- Settles O23: for each of the two lines, one BusWrite of the jump to its base address, and the commit of its start. -/
theorem lineJumpsToItsStart : Obligations.LineJumpsToItsStart := by
  unfold Obligations.LineJumpsToItsStart
  intro s n c l ha hq hline
  rcases hline with ⟨rfl, rfl, rfl⟩ | ⟨rfl, rfl, rfl⟩
  · exact exec_busWrite ha hq (decode_requestBits_wellFormed (i := .line 1) rfl (.inl rfl)) rfl
  · exact exec_busWrite ha hq (decode_requestBits_wellFormed (i := .line 2) rfl (.inr rfl)) rfl

end Sys2Proof.Machine
end

section
/-! PROOFS. The Text Stream State Machine (42_text_stream.md): stretches of bus transfers put together, and FEED of each
class of character to its end. -/
namespace Sys2Proof.Machine

/-! ### Stretches of bus transfers -/

/-- From `s` to `t`, an unbounded turn performs `ops` and goes on: it takes `k` answers and adds `evs` to the trace, and
once the reference controller has finished its frame it has executed `fs`; one whose answers are draws is not followed. -/
structure Stretch (k : Nat) (ops : List MicroOp) (evs : List Event) (fs : List Frame) (s t : State) : Prop where
  runs : ∀ rest, runSeq none (ops ++ rest) s = runSeq none rest t
  moves : Moves k evs s t
  draws : s.params.controller = .draws → t.lcd = s.lcd
  reference : s.params.controller = .reference →
    finishPending t.lcd = fs.foldl (fun c f => executeFrame f c) (finishPending s.lcd)

section
variable {k : Nat} {ops : List MicroOp} {evs : List Event} {fs : List Frame} {s t : State}

theorem Stretch.append (h : Stretch k ops evs fs s t) {j : Nat} {ops' : List MicroOp} {evs' : List Event}
    {fs' : List Frame} {u : State} (g : Stretch j ops' evs' fs' t u) :
    Stretch (k + j) (ops ++ ops') (evs ++ evs') (fs ++ fs') s u where
  runs rest := by rw [List.append_assoc, h.runs, g.runs]
  moves := h.moves.trans g.moves
  draws hc := (g.draws (h.moves.params ▸ hc)).trans (h.draws hc)
  reference hc := by rw [g.reference (h.moves.params ▸ hc), h.reference hc, List.foldl_append]

/-- The frame held after a stretch comes after the frames of the stretch. -/
theorem Stretch.delivered (h : Stretch k ops evs fs s t) {f : Frame} {u : State} (d : Delivered [] f t u) :
    Delivered fs f s u := by
  obtain ⟨hd, hr⟩ := d
  refine ⟨fun hc => (hd (h.moves.params ▸ hc)).trans (h.draws hc), fun hc => ?_⟩
  rw [hr (h.moves.params ▸ hc), h.reference hc]
  rfl

/-- The first answer after a stretch is the next one from its start. -/
theorem Stretch.clear_next (h : Stretch k ops evs fs s t) (hk : busyFlag (s.drawAt k) = false) :
    busyFlag (t.drawAt 0) = false := by
  rw [h.moves.draws, Nat.zero_add, hk]

/-- Operations that do what a BusWrite does, with a clear draw: a poll and the write; the frame is held (R124). -/
theorem stretch_of_busWrite {r : Rs} {b : Byte} (h : busyFlag (s.drawAt 0) = false)
    (hops : ∀ rest, runSeq none (ops ++ rest) s = runSeq none (busWriteOps s.params.busMode r b ++ rest) s) :
    ∃ t, Stretch 1 ops [.poll (s.answer .C), .wr r b] [⟨r, b⟩] s t ∧ t.acc = s.acc ∧ Delivered [] ⟨r, b⟩ s t := by
  obtain ⟨t, hrun, hmoves, hacc, hdraws, href⟩ := runSeq_busWrite r b h
  refine ⟨t, ⟨fun rest => (hops rest).trans (hrun rest), hmoves, hdraws, fun hc => ?_⟩, hacc, hdraws, href⟩
  rw [href hc, finishPending_latchIn _ _ (finishPending_pending _)]
  rfl

/-- A stretch goes on with one more frame, its busy check clear (R124). -/
theorem Stretch.then_frame (h : Stretch k ops evs fs s t) {ops' : List MicroOp} {r : Rs} {b : Byte}
    (hk : busyFlag (s.drawAt k) = false)
    (hops : ∀ rest, runSeq none (ops' ++ rest) t = runSeq none (busWriteOps s.params.busMode r b ++ rest) t) :
    ∃ u v, s.ClearAnswer k v ∧
      Stretch (k + 1) (ops ++ ops') (evs ++ [.poll v, .wr r b]) (fs ++ [⟨r, b⟩]) s u ∧ u.acc = t.acc ∧
      Delivered fs ⟨r, b⟩ s u := by
  rw [← h.moves.params] at hops
  obtain ⟨u, g, hacc, hd⟩ := stretch_of_busWrite (h.clear_next hk) hops
  exact ⟨u, _, h.moves.clearAnswer (h.clear_next hk), h.append g, hacc, h.delivered hd⟩

theorem Stretch.then_busWrite (h : Stretch k ops evs fs s t) (r : Rs) (b : Byte)
    (hk : busyFlag (s.drawAt k) = false) :
    ∃ u v, s.ClearAnswer k v ∧
      Stretch (k + 1) (ops ++ busWriteOps s.params.busMode r b) (evs ++ [.poll v, .wr r b]) (fs ++ [⟨r, b⟩]) s u ∧
      u.acc = t.acc ∧ Delivered fs ⟨r, b⟩ s u :=
  h.then_frame hk fun _ => rfl

/-- The jump of the CR path is a BusWrite of the byte its read selects (R175). -/
theorem runSeq_crJump (m : BusMode) (rest : List MicroOp) (s : State) :
    runSeq none (crJumpOps m ++ rest) s =
      runSeq none (busWriteOps m .C (crJumpByte (addressOf s.acc)) ++ rest) s := by
  rw [crJumpOps, busWriteOps, List.cons_append, List.cons_append, runSeq_plain (by decide), runSeq_plain (by simp)]
  rfl

/-- Once it holds no frame, the reference controller is as it was after a read of `C`, whatever the draw (R76). -/
theorem referenceAnswer_idle (d : Byte) {c : Lcd} (hp : c.pending = none) : (referenceAnswer .C d c).2 = c :=
  (referenceStatus_finished (.inr hp)).1.trans (finishPending_none hp)

/-- A stretch goes on with a BusRead of `C`, its busy check clear: the byte is the next draw, or what the reference
controller answers after the frames of the stretch (R123, R76). -/
theorem Stretch.then_busRead (h : Stretch k ops evs fs s t) (hk : busyFlag (s.drawAt k) = false) :
    ∃ u v, s.ClearAnswer k v ∧
      Stretch (k + 2) (ops ++ busReadOps s.params.busMode .C) (evs ++ [.poll v, .rd .C u.acc]) fs s u ∧
      (s.params.controller = .draws → u.acc = s.drawAt (k + 1)) ∧
      (s.params.controller = .reference → u.acc =
        (referenceAnswer .C (s.drawAt (k + 1)) (fs.foldl (fun c f => executeFrame f c) (finishPending s.lcd))).1) := by
  obtain ⟨u, w, hrun, hw, hdraws, href, hmoves, hacc, hlcd⟩ := runSeq_busRead .C (h.clear_next hk)
  have hp := h.moves.params
  have hpw := hw.params.trans hp
  have hdraw : w.drawAt 0 = s.drawAt (k + 1) := by
    rw [hw.draws, h.moves.draws, Nat.zero_add, Nat.add_comm]
  rw [hp] at hrun hdraws href
  rw [← hacc] at hmoves
  simp only [State.answer, State.lcdAnswered, hpw, hdraw] at hacc hlcd
  have hread : Stretch 2 (busReadOps s.params.busMode .C) [.poll (t.answer .C), .rd .C u.acc] [] t u := by
    refine ⟨hrun, hmoves, fun hc => ?_, fun hc => ?_⟩
    · rw [hp] at hc
      simp only [hc] at hlcd
      exact hlcd.trans (hdraws hc)
    · rw [hp] at hc
      simp only [hc] at hlcd
      rw [hlcd, href hc, referenceAnswer_idle _ (finishPending_pending _),
        finishPending_none (finishPending_pending _)]
      rfl
  refine ⟨u, _, h.moves.clearAnswer (h.clear_next hk), List.append_nil fs ▸ h.append hread, fun hc => ?_, fun hc => ?_⟩
  · simpa only [hc] using hacc
  · simpa only [hc, href hc, h.reference hc] using hacc

/-- A request whose sequence is a stretch runs to its end and commits its updates (R31, R120). -/
theorem Stretch.completes {i : Instr} (h : Stretch k ops evs fs { s with reql := requestBits i } t) (ha : s.Accepting)
    (hd : decode (.request (requestBits i)) = .ok i) (he : exec i s = .next (request i ops s)) :
    exec i s = .next { commitRequest t with seq := [] } ∧ Finished i evs s { commitRequest t with seq := [] } ∧
      (commitRequest t).regs = { commitOf s.params t.acc i s.regs with err := .ok } := by
  obtain ⟨hfin, hregs⟩ := h.moves.finished hd
  refine ⟨?_, hfin, hregs⟩
  rw [he, request_accepting ha, h.runs, runSeq_commit]

/-- FEED whose class's sequence is a stretch runs to its end (R170). -/
theorem Stretch.completes_feed {c : Byte} (h : Stretch k ops evs fs { s with reql := requestBits (.feed c) } t)
    (ha : s.Accepting) (hops : feedOps s.params s.regs.cfg c = ops) :
    exec (.feed c) s = .next { commitRequest t with seq := [] } ∧
      Finished (.feed c) evs s { commitRequest t with seq := [] } ∧
      (commitRequest t).regs = { commitFeed s.params t.acc c s.regs with err := .ok } :=
  h.completes ha (decode_requestBits rfl nofun) (by rw [← hops]; rfl)

end

/-! ### Backspace -/

/-- COL down by one in numbers, saturating at 0 (R172). -/
theorem decCol_toNat (col : Byte) : (decCol col).toNat = col.toNat - 1 := by
  unfold decCol
  split <;> bv_omega

/-- Settles O24: the sequence is four BusWrites, and the commit takes one from COL. -/
theorem backspaceErasesOneCell : Obligations.BackspaceErasesOneCell := by
  unfold Obligations.BackspaceErasesOneCell
  intro s ha hq
  have hq' : State.Quiet { s with reql := requestBits (.feed 0x7F) } 4 := hq
  obtain ⟨t₁, h₁, -⟩ := stretch_of_busWrite (r := .C) (b := cmdLeftByte) (hq' 0 (by decide)) fun _ => rfl
  obtain ⟨t₂, b, hb, h₂, -⟩ := h₁.then_busWrite .C (entryByte 1) (hq' 1 (by decide))
  obtain ⟨t₃, c, hc, h₃, -⟩ := h₂.then_busWrite .D spaceGlyph (hq' 2 (by decide))
  obtain ⟨t₄, d, hd, h₄, -, hlcd⟩ := h₃.then_busWrite .C cmdLeftByte (hq' 3 (by decide))
  obtain ⟨he, hfin, hregs⟩ := h₄.completes_feed ha (by simp only [List.append_assoc]; rfl)
  exact ⟨_, _, b, c, d, he, clearAnswer_zero (hq' 0 (by decide)), hb, hc, hd, hfin,
    ⟨decCol s.regs.cur.col, decCol_toNat _, hregs⟩, hlcd⟩

/-! ### Carriage return -/

theorem crConfig_eq (p : Params) (cfg : DisplayConfig) :
    crConfig p cfg = if p.crCfg = .fixed2L5x11 then { lines := 1, font := 1 } else cfg := by
  unfold crConfig
  cases p.crCfg <;> rfl

/-- The address in a byte read from `C` is on line 2 from 0x40 on (R175). -/
theorem onLine2_addressOf (x : Byte) : onLine2 (addressOf x) = true ↔ 0x40 ≤ x.toNat % 0x80 := by
  rw [onLine2, decide_eq_true_eq, addressOf, BitVec.extractLsb'_toNat, Nat.shiftRight_zero]
  rfl

/-- The CR path jumps to the start of the line the address is not on (R175). -/
theorem crJump_alternates (x : Byte) :
    if 0x40 ≤ x.toNat % 0x80 then crJumpByte (addressOf x) = 0x80 ∧ crTarget (addressOf x) = 0
    else crJumpByte (addressOf x) = 0xC0 ∧ crTarget (addressOf x) = 1 := by
  simp only [← onLine2_addressOf, crJumpByte, crTarget]
  split <;> exact ⟨rfl, rfl⟩

theorem decode_fsByte (m : BusMode) (l f : Flag) :
    ∃ dl, decode (.command (fsByte m l f)) = .ok (.cmdFunctionSet dl l f) := by
  cases m
  · exact ⟨1, by revert l f; decide⟩
  · exact ⟨0, by revert l f; decide⟩

/-- A function set leaves the address for the read of `C` that follows it (R71, R76). -/
theorem referenceAnswer_after_fsByte (d : Byte) (m : BusMode) (l f : Flag) {c : Lcd} (hp : c.pending = none)
    (hm : c.offModel = false) :
    (referenceAnswer .C d (executeFrame ⟨.C, fsByte m l f⟩ c)).1.toNat = c.ac.toNat := by
  obtain ⟨dl, hd⟩ := decode_fsByte m l f
  rw [executeFrame_command hm hd]
  exact (referenceStatus_idle d (c := lcdFunctionSet dl l f c) hp hm).1

/-- Settles O25: a BusWrite of the configuration, a BusRead of `C`, and the jump the byte read selects. -/
theorem carriageReturnAlternatesLines : Obligations.CarriageReturnAlternatesLines := by
  unfold Obligations.CarriageReturnAlternatesLines
  intro s ha hq hd
  have hq' : State.Quiet { s with reql := requestBits (.feed 0x0D) } 2 := hq
  let cfg := crConfig s.params s.regs.cfg
  obtain ⟨t₁, h₁, -⟩ := stretch_of_busWrite (r := .C) (b := fsByte s.params.busMode cfg.lines cfg.font)
    (hq' 0 (by decide)) fun _ => rfl
  obtain ⟨t₂, b, hb, h₂, hdraws, href⟩ := h₁.then_busRead (hq' 1 (by decide))
  obtain ⟨t₃, d, hd', h₃, hacc, hlcd⟩ := h₂.then_frame hd fun rest => runSeq_crJump s.params.busMode rest t₂
  obtain ⟨he, hfin, hregs⟩ := h₃.completes_feed ha (by simp only [List.append_assoc]; rfl)
  rw [hacc] at hregs
  refine ⟨_, _, b, t₂.acc, d, _, _, cfg, _, he, clearAnswer_zero (hq' 0 (by decide)), hb, hd', crConfig_eq _ _,
    fsByte_toNat _ _ _, crJump_alternates t₂.acc, hfin, hregs, hlcd, hdraws, href, fun hcr hm => ?_⟩
  rw [href hcr]
  exact referenceAnswer_after_fsByte _ _ _ _ (finishPending_pending _) hm

/-! ### Line feed -/

/-- Settles O26: the sequence is empty, so the commit alone runs. -/
theorem lineFeedDoesNothingOnTheBus : Obligations.LineFeedDoesNothingOnTheBus := by
  unfold Obligations.LineFeedDoesNothingOnTheBus
  intro s ha
  have he : exec (.feed 0x0A) s = .next (request (.feed 0x0A) [] s) := rfl
  have hs : s.seq = [] := ha.1
  have hregs : committedRegs { s with reql := requestBits (.feed 0x0A) } = { s.regs with resp := s.regs.cur.col } := by
    simp only [committedRegs, decode_requestBits (i := .feed 0x0A) rfl nofun]
    rfl
  rw [he, request_accepting ha, List.nil_append, runSeq_commit, commitRequest, hregs, ← hs]
  rfl

/-! ### Printable bytes -/

/-- Every byte but the three control bytes is a glyph (R105). -/
theorem classOf_printable {c : Byte} (hbs : c ≠ 0x7F) (hcr : c ≠ 0x0D) (hlf : c ≠ 0x0A) :
    classOf c = .printable := by
  rw [classOf, charBs, charCr, charLf, if_neg hbs, if_neg hcr, if_neg hlf]

/-- The column after a glyph in numbers: one more modulo 256, or as it was with POSTINC_BUG (R172, R177). -/
theorem colAfterGlyph_toNat (bug : Bool) (col : Byte) :
    if bug then (if bug then col else incCol col) = col
    else (if bug then col else incCol col).toNat = (col.toNat + 1) % 256 := by
  cases bug
  · exact BitVec.toNat_add col 1
  · rfl

/-- Settles O27: the sequence is two BusWrites, and the commit moves COL as POSTINC_BUG says. -/
theorem printableByteAdvancesTheColumn : Obligations.PrintableByteAdvancesTheColumn := by
  unfold Obligations.PrintableByteAdvancesTheColumn
  intro s c ha hq hbs hcr hlf
  have hk := classOf_printable hbs hcr hlf
  have hq' : State.Quiet { s with reql := requestBits (.feed c) } 2 := hq
  obtain ⟨t₁, h₁, -⟩ := stretch_of_busWrite (r := .C) (b := entryByte 1) (hq' 0 (by decide)) fun _ => rfl
  obtain ⟨t₂, b, hb, h₂, -, hlcd⟩ := h₁.then_busWrite .D c (hq' 1 (by decide))
  obtain ⟨he, hfin, hregs⟩ := h₂.completes_feed ha (by simp only [feedOps, hk]; rfl)
  simp only [commitFeed, hk] at hregs
  exact ⟨_, _, b, he, clearAnswer_zero (hq' 0 (by decide)), hb, hfin, ⟨_, colAfterGlyph_toNat _ _, hregs⟩, hlcd⟩

end Sys2Proof.Machine
end

section
/-! PROOFS. Block control (43_block_control.md): LDCUR, and INIT to its end for any INIT_CMDS, by induction over them. -/
namespace Sys2Proof.Machine

/-! ### LDCUR -/

/-- A request with no micro-operations of its own, from the ready, initialised block: its commit alone runs (R31, R120). -/
theorem exec_commitAlone {s : State} {i : Instr} (ha : s.Accepting) (hd : decode (.request (requestBits i)) = .ok i)
    (he : exec i s = .next (request i [] s)) :
    exec i s = .next { s with
      reql := requestBits i
      regs := { commitOf s.params s.acc i s.regs with err := .ok } } := by
  have hs : s.seq = [] := ha.1
  have hregs : committedRegs { s with reql := requestBits i } = commitOf s.params s.acc i s.regs := by
    simp only [committedRegs, hd]
  rw [he, request_accepting ha, List.nil_append, runSeq_commit, commitRequest, hregs, ← hs]

/-- Settles O29: LDCUR is its commit alone. -/
theorem ldcurLoadsTheMirror : Obligations.LdcurLoadsTheMirror := by
  unfold Obligations.LdcurLoadsTheMirror
  intro s l c ha
  exact exec_commitAlone ha (decode_requestBits (i := .ldcur l c) rfl nofun) rfl

/-! ### INIT -/

/-- The state INIT's pin changes leave (R200). -/
def initPinState (s : State) : State :=
  { s with pins := { s.pins with ctrlOe := true, e := false, rw := false, rs := false, dbOe := true } }

theorem runSeq_initPinOps (rest : List MicroOp) (s : State) :
    runSeq none (initPinOps ++ rest) s = runSeq none rest (initPinState s) :=
  runSeq_straight (by decide) rest s

/-- INIT on the ready block, once board and controller are up, whether initialised or not: its pin changes, its commands
and its commit (R120, R200). -/
theorem exec_init {s : State} (hs : s.seq = []) (hq : s.quantum = none) (hb : s.boardUp = true) (hl : s.lcdUp = true) :
    exec .init s = .next (runSeq none (initCmdOps s.params.busMode s.params.initCmds ++ [.commit])
      (initPinState { s with reql := requestBits .init })) := by
  have he : exec .init s = .next (request .init (initOps s.params) s) := by simp [exec, execInit, hb, hl]
  rw [he, ← runSeq_initPinOps, ← List.append_assoc, ← initOps]
  simp [request, startRequest, ready, hs, hq]

/-- The answers to a stretch that follows `j` answers come `j` places later. -/
theorem Moves.clearAnswer_later {j k : Nat} {evs : List Event} {s t : State} {v : Byte} (m : Moves j evs s t)
    (h : t.ClearAnswer k v) : s.ClearAnswer (k + j) v :=
  ⟨h.1, fun hc => (h.2 (m.params ▸ hc)).trans (m.draws k)⟩

/-- Nothing at all is a stretch where the pins are those between transfers. -/
theorem Stretch.refl {s : State} (h : s.pins.e = false ∧ s.pins.rw = false ∧ s.pins.dbOe = true) :
    Stretch 0 [] [] [] s s where
  runs _ := rfl
  moves := ⟨(List.append_nil _).symm, rfl, rfl, ⟨rfl, rfl, rfl, rfl, rfl, rfl, rfl⟩, fun _ => rfl, rfl,
    ⟨h.1, h.2.1, h.2.2, rfl⟩⟩
  draws _ := rfl
  reference _ := rfl

/-- INIT's commands with clear draws: for each in order a poll and the write of its byte to `C`, which the reference
controller executes (R124, R200). -/
theorem stretch_initCmds (ks : List Byte) {s : State} (hq : s.Quiet ks.length)
    (hp : s.pins.e = false ∧ s.pins.rw = false ∧ s.pins.dbOe = true) :
    ∃ (t : State) (vs : List Byte), vs.length = ks.length ∧ (∀ k v, vs[k]? = some v → s.ClearAnswer k v) ∧
      Stretch ks.length (initCmdOps s.params.busMode ks) ((vs.zip ks).flatMap fun p => [.poll p.1, .wr .C p.2])
        (ks.map (Frame.mk .C)) s t := by
  induction ks generalizing s with
  | nil => exact ⟨s, [], rfl, nofun, Stretch.refl hp⟩
  | cons b ks ih =>
    have hclear : busyFlag (s.drawAt 0) = false := hq 0 (Nat.succ_pos _)
    obtain ⟨u, h, -⟩ := stretch_of_busWrite (r := .C) (b := b) hclear fun _ => rfl
    obtain ⟨he, hrw, hdb, -⟩ := h.moves.pins
    obtain ⟨t, vs, hlen, hvs, g⟩ := ih (h.moves.quiet hq) ⟨he, hrw, hdb⟩
    rw [h.moves.params] at g
    have hall := h.append g
    rw [Nat.add_comm] at hall
    refine ⟨t, s.answer .C :: vs, congrArg (· + 1) hlen, fun k v hk => ?_, hall⟩
    cases k with
    | zero =>
      obtain rfl := Option.some.inj hk
      exact clearAnswer_zero hclear
    | succ k => exact h.moves.clearAnswer_later (hvs k v hk)

/-- Settles O28: from the driven pins the commands are one stretch, and the commit sets CFG, CUR and INITD. -/
theorem initSendsItsCommands : Obligations.InitSendsItsCommands := by
  unfold Obligations.InitSendsItsCommands
  intro s hs hquant hb hl hq
  obtain ⟨t, vs, hlen, hvs, h⟩ := stretch_initCmds s.params.initCmds
    (s := initPinState { s with reql := requestBits .init }) hq ⟨rfl, rfl, rfl⟩
  obtain ⟨hfin, hregs⟩ := h.moves.finished (s := initPinState s) (decode_requestBits (i := .init) rfl nofun)
  refine ⟨_, vs, ?_, hlen, hvs, hfin, hregs, h.moves.pins, h.draws, fun hc => ?_⟩
  · exact (exec_init hs hquant hb hl).trans (congrArg Host.Outcome.next ((h.runs _).trans (runSeq_commit t)))
  · exact (h.reference hc).trans List.foldl_map

end Sys2Proof.Machine
end

section
/-! PROOFS. How a request ends with an error at once (R211, R214): an ILLEGAL word, and a request before INIT. -/
namespace Sys2Proof.Machine

/-- An error raised while no sequence runs writes ERR alone (R212). -/
theorem raiseError_of_idle {s : State} (hs : s.seq = []) (code : ErrCode) :
    raiseError code s = { s with regs := { s.regs with err := code } } := by
  rw [raiseError, ← hs]

/-- A word that is no request, written to `REQ` of the ready block, is reported (R24, R211). -/
theorem hostWrite_req_illegal {waiting done : State} {w : Word32} {e : Reject} (h : waiting.seq = [])
    (hd : decodeWrite w = .error e) :
    hostWrite 0 w waiting done = .next (illegalRequest (w.extractLsb' 0 16) done) := by
  rw [hostWrite, if_pos rfl, if_pos ((ready_iff _).2 h), acceptWrite, hd]

/-- Reporting a word that is no request writes REQL and ERR alone (R120, R211). -/
theorem illegalRequest_of_idle {s : State} (hs : s.seq = []) (w : Word16) :
    illegalRequest w s = { s with reql := w, regs := { s.regs with err := .illegal } } :=
  raiseError_of_idle (s := { s with reql := w }) hs .illegal

/-- Settles O11. -/
theorem illegalWordOnlyReports : Obligations.IllegalWordOnlyReports := by
  unfold Obligations.IllegalWordOnlyReports
  intro s w rest e ht hs hq hd
  have hreport := illegalRequest_of_idle (s := { s with hostQ := rest, turns := s.turns.tail }) hs (w.extractLsb' 0 16)
  rw [step_write ht hq rfl, hostWrite_req_illegal (waiting := { s with turns := s.turns.tail }) hs hd]
  exact congrArg Host.Outcome.next hreport

/-- A request answers a next state, once an INIT finds board and controller up: it is held on the busy block, and its
own sequence is performed on the ready one (R24, R120, R242). -/
theorem exec_request {s : State} {i : Instr} (hi : i.isRequest = true)
    (hboot : i = .init → s.boardUp = true ∧ s.lcdUp = true) :
    exec i s = .next (request i (sequenceOf s.params s.regs.cfg i) s) := by
  cases i with
  | init =>
    obtain ⟨hb, hl⟩ := hboot rfl
    rw [exec, execInit, hb, hl]
    rfl
  | cmdClear => cases hi
  | cmdHome => cases hi
  | cmdEntry _ _ => cases hi
  | cmdDisplay _ _ _ => cases hi
  | cmdShift _ _ => cases hi
  | cmdFunctionSet _ _ _ => cases hi
  | cmdSetCgram _ => cases hi
  | cmdSetDdram _ => cases hi
  | _ => rfl

/-- Settles O12. -/
theorem requestBeforeInitOnlyReports : Obligations.RequestBeforeInitOnlyReports := by
  unfold Obligations.RequestBeforeInitOnlyReports
  intro s i hs hn hi hne
  have hexec := exec_request (s := s) hi fun h => absurd h hne
  rcases exec_request_cases hi hexec with ⟨hbusy, -⟩ | ⟨-, -, -, heq⟩ | ⟨-, hinit, -⟩
  · exact absurd hs hbusy
  · rw [hexec, heq]
    exact congrArg Host.Outcome.next (raiseError_of_idle (s := { s with reql := requestBits i }) hs .notInit)
  · rcases hinit with h | h
    · exact absurd (hn.symm.trans h) Bool.false_ne_true
    · exact absurd h hne

end Sys2Proof.Machine
end

section
/-! PROOFS. The transfers of a request in order (R106), each with the busy wait in front of it (R123, R124): its sequence
and its polls are read off them, so that what holds of every wait is proved once. -/
namespace Sys2Proof.Machine

/-! ### A transfer -/

/-- A transfer behind a busy wait: a BusWrite, a BusRead, or the jump of the CR path, whose byte the read before it
selects (R123, R124, R175). -/
inductive Transfer where
  | write (r : Rs) (b : Byte)
  | read (r : Rs)
  | jump

namespace Transfer

/-- The micro-operations of a transfer, its busy wait among them. -/
def ops (m : BusMode) : Transfer → List MicroOp
  | write r b => busWriteOps m r b
  | read r => busReadOps m r
  | jump => crJumpOps m

/-- What comes before its busy wait: a byte to write is loaded. -/
def load : Transfer → List MicroOp
  | write _ b => [.load b]
  | read _ => []
  | jump => [.loadTarget]

/-- What comes after its busy wait. -/
def body (m : BusMode) : Transfer → List MicroOp
  | write r _ => rawWriteOps m r
  | read r => rawReadOps m r ++ [.rd r]
  | jump => rawWriteOps m .C

/-- How many answers it takes, its busy check clear: one for the check, one more for a read. -/
def draws : Transfer → Nat
  | write _ _ => 1
  | read _ => 2
  | jump => 1

/-- The byte the request has read once the transfer is done, where the answers are the draws `d` and `acc` is the byte it
had read before. -/
def kept (acc : Byte) (d : Nat → Byte) : Transfer → Byte
  | write _ _ => acc
  | read _ => d 1
  | jump => acc

/-- The event it adds to the trace after its busy check, where `v` is the byte the request has read (R9). -/
def event (v : Byte) : Transfer → Event
  | write r b => .wr r b
  | read r => .rd r v
  | jump => .wr .C (crJumpByte (addressOf v))

theorem ops_eq (m : BusMode) (x : Transfer) : x.ops m = x.load ++ (pollBusyOps m ++ x.body m) := by cases x <;> rfl

theorem pollTest_notMem_load (x : Transfer) : .pollTest ∉ x.load := by cases x <;> simp [load]

theorem pollTest_notMem_body (m : BusMode) (x : Transfer) : .pollTest ∉ x.body m := by
  cases x with
  | write r b => exact pollTest_notMem_rawWrite m r
  | read r => simp [body, pollTest_notMem_rawRead]
  | jump => exact pollTest_notMem_rawWrite m .C

theorem draws_pos (x : Transfer) : 0 < x.draws := by cases x <;> simp [draws]

/-- Of a transfer's two events only its own is no busy check. -/
theorem filter_events (v w : Byte) (x : Transfer) (evs : List Event) :
    ([.poll v, x.event w] ++ evs).filter isTransfer = x.event w :: evs.filter isTransfer := by
  cases x <;> rfl

/-- Its only busy check is the first of its two events. -/
theorem eq_of_poll_mem_events {u v w : Byte} {x : Transfer} (h : .poll u ∈ [.poll v, x.event w]) : u = v := by
  cases x <;> simpa [event] using h

end Transfer

/-- The load before a busy wait touches the loaded byte alone. -/
theorem runMicros_load (x : Transfer) (s : State) : runMicros x.load s = { s with tx := (runMicros x.load s).tx } := by
  cases x <;> rfl

/-- A transfer begins with its load and its busy wait. -/
theorem runSeq_transfer (m : BusMode) (x : Transfer) (rest : List MicroOp) (s : State) :
    runSeq none (x.ops m ++ rest) s =
      runSeq none (pollBusyOps m ++ (x.body m ++ rest)) { s with tx := (runMicros x.load s).tx } := by
  rw [x.ops_eq, List.append_assoc, List.append_assoc, runSeq_straight x.pollTest_notMem_load, ← runMicros_load]

/-- With a clear draw a transfer is performed: one busy check and its own event (R123, R124). -/
theorem runSeq_transfer_clear (x : Transfer) {s : State} (hc : s.params.controller = .draws)
    (h : busyFlag (s.drawAt 0) = false) :
    ∃ t, (∀ rest, runSeq none (x.ops s.params.busMode ++ rest) s = runSeq none rest t) ∧
      t.acc = x.kept s.acc s.drawAt ∧
      Moves x.draws [.poll (s.drawAt 0), x.event (x.kept s.acc s.drawAt)] s t := by
  have hans : s.answer .C = s.drawAt 0 := by rw [State.answer, hc]
  rw [← hans]
  cases x with
  | write r b =>
    obtain ⟨t, hrun, hmoves, hacc, -⟩ := runSeq_busWrite r b h
    exact ⟨t, hrun, hacc, hmoves⟩
  | read r =>
    obtain ⟨t, u, hrun, hu, -, -, hmoves, hacc, -⟩ := runSeq_busRead r h
    have hv : u.answer r = s.drawAt 1 := by
      rw [State.answer, hu.params, hc]
      exact hu.draws 0
    rw [hv] at hmoves hacc
    exact ⟨t, hrun, hacc, hmoves⟩
  | jump =>
    obtain ⟨t, hrun, hmoves, hacc, -⟩ := runSeq_busWrite .C (crJumpByte (addressOf s.acc)) h
    exact ⟨t, fun rest => (runSeq_crJump _ rest s).trans (hrun rest), hacc, hmoves⟩

/-- With the bound 1 and a busy answer a transfer ends the request at its first busy check (R125, R215). -/
theorem runSeq_transfer_timeout (x : Transfer) {s : State} (hn : s.params.busyTimeout = some 1)
    (h : busyFlag (s.answer .C) = true) (rest : List MicroOp) :
    ∃ t, runSeq none (x.ops s.params.busMode ++ rest) s = raiseError .busTimeout t ∧
      Moves 1 [.poll (s.answer .C)] s t := by
  obtain ⟨hmoves, -⟩ := busyCheck_moves { s with tx := (runMicros x.load s).tx, pollcnt := 0 }
  refine ⟨_, ?_, ⟨hmoves.trace, hmoves.regs, hmoves.reql, hmoves.around, hmoves.draws, hmoves.reads, hmoves.pins⟩⟩
  rw [runSeq_transfer]
  exact runSeq_pollBusy_timeout (s := { s with tx := (runMicros x.load s).tx }) h hn _

/-! ### The transfers of a request -/

/-- The transfers of a request, in order (R106). -/
def transfersOf (p : Params) (cfg : DisplayConfig) (i : Instr) : List Transfer :=
  match i with
  | .init => p.initCmds.map (.write .C)
  | .write r b => [.write r b]
  | .read r => [.read r]
  | .clear => [.write .C cmdClearByte]
  | .home => [.write .C cmdHomeByte]
  | .entry inc => [.write .C (entryByte inc)]
  | .display on => [.write .C (dispByte p.dispCb on)]
  | .configure l f => [.write .C (fsByte p.busMode l f)]
  | .setaddr a => [.write .C (setddByte a)]
  | .line n => [.write .C (setddByte (lineBase n))]
  | .feed c =>
    match classOf c with
    | .bs =>
      [.write .C cmdLeftByte, .write .C (entryByte 1), .write .D spaceGlyph, .write .C cmdLeftByte]
    | .cr => [.write .C (fsByte p.busMode (crConfig p cfg).lines (crConfig p cfg).font), .read .C, .jump]
    | .lf => []
    | .printable => [.write .C (entryByte 1), .write .D c]
  | _ => []

/-- What a request does before its transfers: INIT's pin changes; all of BUSY, which has no wait (R132, R200). -/
def leadOps (p : Params) (i : Instr) : List MicroOp :=
  match i with
  | .init => initPinOps
  | .busy => busyOps p
  | _ => []

/-- The micro-operations of transfers in order. -/
def transferOps (m : BusMode) (xs : List Transfer) : List MicroOp := xs.flatMap (Transfer.ops m)

theorem transferOps_cons (m : BusMode) (x : Transfer) (xs : List Transfer) :
    transferOps m (x :: xs) = x.ops m ++ transferOps m xs := rfl

theorem initCmdOps_eq (m : BusMode) (ks : List Byte) : initCmdOps m ks = transferOps m (ks.map (.write .C)) := by
  induction ks with
  | nil => rfl
  | cons k ks ih =>
    rw [initCmdOps, ih]
    rfl

theorem feedOps_eq (p : Params) (cfg : DisplayConfig) (c : Byte) :
    feedOps p cfg c = transferOps p.busMode (transfersOf p cfg (.feed c)) := by
  simp only [feedOps, transfersOf]
  cases classOf c with
  | bs => simp [feedBsOps, transferOps, Transfer.ops]
  | cr => simp [feedCrOps, transferOps, Transfer.ops]
  | lf => rfl
  | printable => simp [feedPrintableOps, transferOps, Transfer.ops]

/-- The sequence of an instruction is its lead and its transfers. -/
theorem sequenceOf_eq (p : Params) (cfg : DisplayConfig) (i : Instr) :
    sequenceOf p cfg i = leadOps p i ++ transferOps p.busMode (transfersOf p cfg i) := by
  cases i with
  | init => exact congrArg (initPinOps ++ ·) (initCmdOps_eq _ _)
  | feed c => exact feedOps_eq p cfg c
  | busy => exact (List.append_nil _).symm
  | _ => simp [sequenceOf, leadOps, transfersOf, transferOps, Transfer.ops, writeOps, readOps, commandOps]

theorem pollTest_notMem_leadOps (p : Params) (i : Instr) : .pollTest ∉ leadOps p i := by
  cases i with
  | init => simp [leadOps, initPinOps]
  | busy => simp [leadOps, busyOps, pollTest_notMem_rawRead]
  | _ => exact List.not_mem_nil

/-- But for BUSY, the lead touches the pins alone. -/
theorem runMicros_leadOps {p : Params} {i : Instr} (h : i ≠ .busy) (s : State) :
    runMicros (leadOps p i) s = { s with pins := (runMicros (leadOps p i) s).pins } := by
  cases i with
  | busy => exact absurd rfl h
  | _ => rfl

/-- No request but INIT has more than four transfers (R106). -/
theorem length_transfersOf_le (p : Params) (cfg : DisplayConfig) (i : Instr) :
    (transfersOf p cfg i).length ≤ 4 + p.initCmds.length := by
  cases i with
  | init => simp [transfersOf]
  | feed c =>
    simp only [transfersOf]
    cases classOf c <;> simp <;> omega
  | _ => simp [transfersOf] <;> omega

/-- An unbounded turn of an instruction's sequence and its commit performs the lead, then the transfers. -/
theorem runSeq_sequenceOf {q : Option Nat} (hq : q = none) (p : Params) (cfg : DisplayConfig) (i : Instr) (s : State) :
    runSeq q (sequenceOf p cfg i ++ [.commit]) s =
      runSeq none (transferOps p.busMode (transfersOf p cfg i) ++ [.commit]) (runMicros (leadOps p i) s) := by
  rw [hq, sequenceOf_eq, List.append_assoc, runSeq_straight (pollTest_notMem_leadOps p i)]

/-! ### The polls and the events of transfers -/

/-- Which of the answers to transfers are their busy checks, when each is clear. -/
def pollPlaces : List Transfer → List Nat
  | [] => []
  | x :: xs => 0 :: (pollPlaces xs).map (· + x.draws)

/-- The events of transfers apart from their busy checks, where the answers are the draws `d`, each check is clear, and
`acc` is the byte the request has read before. -/
def transferEvents : List Transfer → Byte → (Nat → Byte) → List Event
  | [], _, _ => []
  | x :: xs, acc, d => x.event (x.kept acc d) :: transferEvents xs (x.kept acc d) fun j => d (j + x.draws)

theorem pollPlaces_writes (r : Rs) (ks : List Byte) : pollPlaces (ks.map (.write r)) = List.range ks.length := by
  induction ks with
  | nil => rfl
  | cons k ks ih =>
    rw [List.map_cons, pollPlaces, ih, List.length_cons, List.range_succ_eq_map]
    rfl

theorem transferEvents_writes (r : Rs) (ks : List Byte) (acc : Byte) (d : Nat → Byte) :
    transferEvents (ks.map (.write r)) acc d = ks.map (.wr r) := by
  induction ks generalizing d with
  | nil => rfl
  | cons k ks ih => exact congrArg _ (ih _)

/-- FEED's byte is one of the three control bytes, or a glyph (R105). -/
theorem feed_byte_cases {P : Byte → Prop} (hbs : P 0x7F) (hcr : P 0x0D) (hlf : P 0x0A)
    (hglyph : ∀ c, c ≠ 0x7F → c ≠ 0x0D → c ≠ 0x0A → P c) (c : Byte) : P c := by
  by_cases h₁ : c = 0x7F
  · exact h₁ ▸ hbs
  by_cases h₂ : c = 0x0D
  · exact h₂ ▸ hcr
  by_cases h₃ : c = 0x0A
  · exact h₃ ▸ hlf
  exact hglyph c h₁ h₂ h₃

/-- The polls R106 gives a request are those of its transfers. -/
theorem pollDraws_eq (p : Params) (cfg : DisplayConfig) (i : Instr) :
    pollDraws p i = pollPlaces (transfersOf p cfg i) := by
  cases i with
  | init => exact (pollPlaces_writes .C p.initCmds).symm
  | feed c =>
    induction c using feed_byte_cases with
    | hbs => rfl
    | hcr => rfl
    | hlf => rfl
    | hglyph c hbs hcr hlf =>
      simp only [pollDraws, transfersOf, if_neg hbs, if_neg hcr, if_neg hlf, classOf_printable hbs hcr hlf]
      rfl
  | _ => rfl

theorem fsByte_eq (m : BusMode) (l f : Flag) : fsByte m l f = BitVec.ofNat 8 (functionSetValue m l f) := by
  rw [← fsByte_toNat, BitVec.ofNat_toNat, BitVec.setWidth_eq]

/-- The function set the CR path re-applies is of its configuration (R175). -/
theorem crFunctionSet_eq (p : Params) (cfg : DisplayConfig) :
    crFunctionSet p cfg = fsByte p.busMode (crConfig p cfg).lines (crConfig p cfg).font := by
  rw [fsByte_eq, crFunctionSet, crConfig]
  cases p.crCfg <;> rfl

theorem crJumpByte_eq (v : Byte) :
    crJumpByte (addressOf v) = if 0x40 ≤ v.toNat % 0x80 then 0x80 else 0xC0 := by
  rw [crJumpByte]
  simp only [onLine2_addressOf]
  rfl

/-- The transfers R106 gives a request are the events of its transfers. -/
theorem requestTransfers_eq (p : Params) (cfg : DisplayConfig) (i : Instr) (acc : Byte) (d : Nat → Byte) :
    ∃ v, requestTransfers p cfg v i = transferEvents (transfersOf p cfg i) acc d := by
  cases i with
  | init => exact ⟨acc, (transferEvents_writes .C p.initCmds acc d).symm⟩
  | read r => exact ⟨d 1, rfl⟩
  | entry inc => exact ⟨acc, by simp only [requestTransfers, ← entryByte_eq]; rfl⟩
  | display on => exact ⟨acc, by simp only [requestTransfers, ← dispByte_eq]; rfl⟩
  | configure l f => exact ⟨acc, by simp only [requestTransfers, ← fsByte_eq]; rfl⟩
  | line n =>
    refine ⟨acc, ?_⟩
    simp only [requestTransfers, transfersOf, lineBase]
    split <;> rfl
  | feed c =>
    induction c using feed_byte_cases with
    | hbs => exact ⟨acc, rfl⟩
    | hcr => exact ⟨d 2, by simp only [requestTransfers, crFunctionSet_eq, ← crJumpByte_eq]; rfl⟩
    | hlf => exact ⟨acc, rfl⟩
    | hglyph c hbs hcr hlf =>
      refine ⟨acc, ?_⟩
      simp only [requestTransfers, transfersOf, if_neg hbs, if_neg hcr, if_neg hlf, classOf_printable hbs hcr hlf]
      rfl
  | _ => exact ⟨acc, rfl⟩

end Sys2Proof.Machine
end

section
/-! PROOFS. BUS_TIMEOUT (R125, R212, R215): where the bound is reached the request is abandoned, and so no request waits
for ever. -/
namespace Sys2Proof.Machine

/-! ### The bound reached -/

/-- A busy check that brings the count to the bound times out (R215). -/
theorem timedOut_pollState {s : State} (hn : s.params.busyTimeout = some (s.pollcnt + 1)) :
    timedOut (pollState s) = true := by
  change (s.params.busyTimeout == some (pollCount s)) = true
  simp only [pollCount, hn, beq_self_eq_true]

/-- Settles O32: the round is performed and timed out. -/
theorem busTimeoutAbandonsTheRequest : Obligations.BusTimeoutAbandonsTheRequest := by
  unfold Obligations.BusTimeoutAbandonsTheRequest
  intro s rest n ht hq hs hb hn hcount
  subst hcount
  obtain ⟨hans, -⟩ := State.answer_withTurns .C s.turns.tail s
  have hto := timedOut_pollState (s := { s with turns := s.turns.tail }) hn
  obtain ⟨m, -⟩ := busyCheck_moves { s with turns := s.turns.tail }
  rw [hans] at m
  obtain ⟨he, hrw, hdb, -⟩ := m.pins
  refine ⟨_, step_pollRound ht hq hs, ?_⟩
  rw [if_pos hb, if_pos hto]
  exact ⟨rfl, by rw [raiseError_regs, m.regs], m.trace, he, hrw, hdb⟩

/-! ### The bound 1 -/

/-- With the bound 1 and drawn answers, transfers end at their first busy check that is not clear; those before it are
done (R125, R215). -/
theorem runSeq_transfers_timeout {xs : List Transfer} {s : State} {k : Nat} (hc : s.params.controller = .draws)
    (hn : s.params.busyTimeout = some 1) (hk : k ∈ pollPlaces xs)
    (hclear : ∀ j ∈ pollPlaces xs, j < k → busyFlag (s.drawAt j) = false) (hbusy : busyFlag (s.drawAt k) = true)
    (rest : List MicroOp) :
    ∃ t evs, runSeq none (transferOps s.params.busMode xs ++ rest) s = raiseError .busTimeout t ∧
      Moves (k + 1) (evs ++ [.poll (s.drawAt k)]) s t ∧ (∀ v, .poll v ∈ evs → busyFlag v = false) ∧
      evs.filter isTransfer <+: transferEvents xs s.acc s.drawAt := by
  induction xs generalizing s k with
  | nil => cases hk
  | cons x xs ih =>
    rw [transferOps_cons, List.append_assoc]
    rcases List.mem_cons.1 hk with rfl | hk
    · have hans : s.answer .C = s.drawAt 0 := by rw [State.answer, hc]
      rw [← hans] at hbusy ⊢
      obtain ⟨t, hrun, hmoves⟩ := runSeq_transfer_timeout x hn hbusy (transferOps s.params.busMode xs ++ rest)
      exact ⟨t, [], hrun, hmoves, nofun, List.nil_prefix⟩
    · obtain ⟨k, hk', rfl⟩ := List.mem_map.1 hk
      have h₀ : busyFlag (s.drawAt 0) = false := hclear 0 List.mem_cons_self (Nat.add_pos_right _ x.draws_pos)
      obtain ⟨u, hrun, hacc, hmoves⟩ := runSeq_transfer_clear x hc h₀
      have hdraw : u.drawAt = fun j => s.drawAt (j + x.draws) := funext hmoves.draws
      have hclear' : ∀ j ∈ pollPlaces xs, j < k → busyFlag (u.drawAt j) = false := fun j hj hlt => by
        rw [hmoves.draws]
        exact hclear _ (List.mem_cons_of_mem _ (List.mem_map_of_mem hj)) (Nat.add_lt_add_right hlt _)
      obtain ⟨t, evs, hrun', hmoves', hpolls, hevs⟩ :=
        ih (hmoves.params ▸ hc) (hmoves.params ▸ hn) hk' hclear' ((congrArg busyFlag (hmoves.draws k)).trans hbusy)
      rw [hmoves.params] at hrun'
      rw [hmoves.draws] at hmoves'
      refine ⟨t, [.poll (s.drawAt 0), x.event (x.kept s.acc s.drawAt)] ++ evs, (hrun _).trans hrun', ?_, ?_, ?_⟩
      · have hall := hmoves.trans hmoves'
        rwa [← List.append_assoc, show x.draws + (k + 1) = k + x.draws + 1 by omega] at hall
      · intro v hv
        rcases List.mem_append.1 hv with hv | hv
        · exact Transfer.eq_of_poll_mem_events hv ▸ h₀
        · exact hpolls v hv
      · rw [hacc, hdraw] at hevs
        rw [x.filter_events, transferEvents]
        exact (List.prefix_cons_inj _).2 hevs

/-- A request on the ready block that passes the INITD check performs its lead, its transfers and its commit (R120). -/
theorem exec_request_runs {s : State} {i : Instr} (hi : i.isRequest = true) (hinit : s.regs.initd = true ∨ i = .init)
    (hboot : i = .init → s.boardUp = true ∧ s.lcdUp = true) (hs : s.seq = []) (hq : s.quantum = none) :
    exec i s = .next (runSeq none (transferOps s.params.busMode (transfersOf s.params s.regs.cfg i) ++ [.commit])
      (runMicros (leadOps s.params i) { s with reql := requestBits i })) := by
  have hexec := exec_request hi hboot
  rcases exec_request_cases hi hexec with ⟨hbusy, -⟩ | ⟨-, hn, hne, -⟩ | ⟨-, -, heq⟩
  · exact absurd hs hbusy
  · simp [hn, hne] at hinit
  · rw [hexec, heq, runSeq_sequenceOf hq]

/-- A stretch that begins with the request's word latched and its lead performed, and then times out, is how the request
ends (R212, R215). -/
theorem timedOut_of_moves {k : Nat} {i : Instr} {evs : List Event} {p : Pins} {s t : State}
    (m : Moves k evs { s with reql := requestBits i, pins := p } t) : TimedOut i evs s (raiseError .busTimeout t) := by
  obtain ⟨he, hrw, hdb, -⟩ := m.pins
  exact ⟨rfl, m.reql, by rw [raiseError_regs, m.regs], m.trace, he, hrw, hdb⟩

/-- Settles O33: the transfers before the busy check are done and stand, and their events begin the request's. -/
theorem firstBusyAnswerTimesOutAtBoundOne : Obligations.FirstBusyAnswerTimesOutAtBoundOne := by
  unfold Obligations.FirstBusyAnswerTimesOutAtBoundOne
  intro s i hi hinit hboot hs hq hn
  have hexec := exec_request_runs hi hinit hboot hs hq
  rw [pollDraws_eq s.params s.regs.cfg i]
  by_cases hb : i = .busy
  · subst hb
    exact ⟨nofun, fun h => absurd rfl h⟩
  rw [runMicros_leadOps hb] at hexec
  generalize (runMicros (leadOps s.params i) { s with reql := requestBits i }).pins = pins at hexec
  refine ⟨fun k hk hc hclear hbusy => ?_, fun hne hbusy => ?_⟩
  · obtain ⟨v, hv⟩ := requestTransfers_eq s.params s.regs.cfg i s.acc s.drawAt
    obtain ⟨t, evs, hrun, hmoves, hpolls, hevs⟩ := runSeq_transfers_timeout
      (s := { s with reql := requestBits i, pins }) hc hn hk hclear hbusy [.commit]
    exact ⟨_, v, evs, hexec.trans (congrArg _ hrun), timedOut_of_moves hmoves, hpolls, hmoves.reads, hv ▸ hevs⟩
  · cases hxs : transfersOf s.params s.regs.cfg i with
    | nil => exact absurd (congrArg pollPlaces hxs) hne
    | cons x xs =>
      rw [hxs, transferOps_cons, List.append_assoc] at hexec
      obtain ⟨t, hrun, hmoves⟩ := runSeq_transfer_timeout x (s := { s with reql := requestBits i, pins }) hn hbusy
        (transferOps s.params.busMode xs ++ [.commit])
      exact ⟨_, hexec.trans (congrArg _ hrun), timedOut_of_moves hmoves⟩

/-! ### No request waits for ever -/

/-- The block is idle, or waits for one transfer with others after it, and has at most `b` busy checks left until each of
these waits is clear or has met `n` busy answers (R215). -/
def IdleWithin (n b : Nat) (s : State) : Prop :=
  s.seq = [] ∨ ∃ x xs,
    s.seq = pollRoundOps s.params.busMode ++ (Transfer.body s.params.busMode x ++
      (transferOps s.params.busMode xs ++ [.commit])) ∧
    s.pollcnt < n ∧ n - s.pollcnt + n * xs.length ≤ b

theorem IdleWithin.mono {n b c : Nat} {s : State} (h : IdleWithin n b s) (hle : b ≤ c) : IdleWithin n c s := by
  rcases h with h | ⟨x, xs, hs, hc, hb⟩
  · exact .inl h
  · exact .inr ⟨x, xs, hs, hc, hb.trans hle⟩

theorem runSeq_surroundings (q : Option Nat) (ops : List MicroOp) (s : State) : Surroundings s (runSeq q ops s) :=
  runSeq_keeps (P := Surroundings s) (fun _ _ h => h) (fun _ h => h)
    (fun op _ u h => h.trans (micro_surroundings op u)) ⟨rfl, rfl, rfl, rfl, rfl, rfl, rfl⟩

theorem runMicros_params (ops : List MicroOp) (s : State) : (runMicros ops s).params = s.params := by
  induction ops generalizing s with
  | nil => rfl
  | cons op ops ih => exact (ih _).trans (micro_params op s)

/-- A round of a busy wait uses up one busy check, or goes on with what follows it (R125, R215). -/
theorem runSeq_round_idleWithin {n b : Nat} {s : State} (hn : s.params.busyTimeout = some n) (hc : s.pollcnt < n)
    (x : Transfer) (xs : List Transfer) (hb : n - s.pollcnt + n * xs.length ≤ b + 1)
    (hrest : ∀ u : State, u.params = s.params →
      IdleWithin n b (runSeq none (transferOps s.params.busMode xs ++ [.commit]) u)) :
    IdleWithin n b (runSeq none (pollRoundOps s.params.busMode ++
      (x.body s.params.busMode ++ (transferOps s.params.busMode xs ++ [.commit]))) s) := by
  have hcount : pollCount s = s.pollcnt + 1 := by rw [pollCount, hn]
  rw [runSeq_pollRound]
  split
  · split
    · exact .inl rfl
    · rename_i hto
      have hne : n ≠ s.pollcnt + 1 := fun h => hto (timedOut_pollState (h ▸ hn))
      refine .inr ⟨x, xs, rfl, ?_, ?_⟩
      · change pollCount s < n
        omega
      · change n - pollCount s + n * xs.length ≤ b
        omega
  · rw [runSeq_straight (x.pollTest_notMem_body _)]
    exact hrest _ (runMicros_params _ _)

/-- Transfers and the commit after them have at most `n` busy checks for each wait (R215). -/
theorem runSeq_transfers_idleWithin {n : Nat} (hpos : 1 ≤ n) (xs : List Transfer) {s : State}
    (hn : s.params.busyTimeout = some n) :
    IdleWithin n (n * xs.length) (runSeq none (transferOps s.params.busMode xs ++ [.commit]) s) := by
  induction xs generalizing s with
  | nil => exact .inl (congrArg State.seq (runSeq_commit s))
  | cons x xs ih =>
    rw [transferOps_cons, List.append_assoc, runSeq_transfer, pollBusyOps, List.cons_append, runSeq_plain (by decide)]
    rw [List.length_cons, Nat.mul_succ]
    refine runSeq_round_idleWithin (s := { s with tx := (runMicros x.load s).tx, pollcnt := 0 }) hn hpos x xs ?_ ?_
    · change n - 0 + n * xs.length ≤ n * xs.length + n + 1
      omega
    · intro u hu
      have hrest := ih (s := u) (hu ▸ hn)
      rw [hu] at hrest
      exact hrest.mono (Nat.le_add_right _ _)

/-- With the default order of turns and no bound on them, a block that is not idle uses up a busy check a step. -/
theorem step_idleWithin {n b : Nat} {s : State} (hpos : 1 ≤ n) (hn : s.params.busyTimeout = some n)
    (hq : s.quantum = none) (ht : s.turns = []) (h : IdleWithin n (b + 1) s) (hs : s.seq ≠ []) :
    ∃ t, step s = .next t ∧ t.params = s.params ∧ t.quantum = none ∧ t.turns = [] ∧ IdleWithin n b t := by
  have hturn : nextTurn s = .block := by simp [nextTurn, ht, ready, hs]
  obtain ⟨x, xs, hseq, hc, hb⟩ := h.resolve_left hs
  obtain ⟨hp, -, -, htt, hqt, -, -⟩ := runSeq_surroundings none _ { s with turns := s.turns.tail }
  refine ⟨_, step_block hturn hq hseq (pollRoundOps_append_ne_nil _ _), hp, hqt.trans hq,
    htt.trans (congrArg List.tail ht), ?_⟩
  refine runSeq_round_idleWithin (s := { s with turns := s.turns.tail }) hn hc x xs hb fun u hu => ?_
  have hrest := runSeq_transfers_idleWithin hpos xs (s := u) (hu ▸ hn)
  rw [hu] at hrest
  exact hrest.mono (by omega)

theorem run_succ_of_step {M : Host.Core} {s t : M.State} (h : M.step s = .next t) (k : Nat) :
    M.run (k + 1) s = M.run k t := by
  rw [Host.Core.run, h]

/-- A block with at most `b` busy checks left is idle after at most `b` steps. -/
theorem run_idleWithin {n b : Nat} {s : State} (hpos : 1 ≤ n) (hn : s.params.busyTimeout = some n)
    (hq : s.quantum = none) (ht : s.turns = []) (h : IdleWithin n b s) :
    ∃ k t, k ≤ b ∧ Sys2Proof.core.run k s = .next t ∧ t.seq = [] := by
  induction b generalizing s with
  | zero =>
    rcases h with hs | ⟨x, xs, -, hc, hb⟩
    · exact ⟨0, s, le_rfl, rfl, hs⟩
    · omega
  | succ b ih =>
    by_cases hs : s.seq = []
    · exact ⟨0, s, Nat.zero_le _, rfl, hs⟩
    · obtain ⟨u, hu, hp, huq, hut, hleft⟩ := step_idleWithin hpos hn hq ht h hs
      obtain ⟨k, t, hk, hrun, hidle⟩ := ih (hp ▸ hn) huq hut hleft
      exact ⟨k + 1, t, Nat.succ_le_succ hk, (run_succ_of_step (M := Sys2Proof.core) hu k).trans hrun, hidle⟩

/-- On the ready block any instruction leaves at most `n` busy checks for each of its transfers (R106, R215). -/
theorem exec_idleWithin {n : Nat} {s u : State} {i : Instr} (hpos : 1 ≤ n) (hn : s.params.busyTimeout = some n)
    (hs : s.seq = []) (hq : s.quantum = none) (h : exec i s = .next u) :
    IdleWithin n (n * (4 + s.params.initCmds.length)) u := by
  cases hi : i.isRequest with
  | false => exact .inl (by rw [exec_command_cases hi h, hs])
  | true =>
    rcases exec_request_cases hi h with ⟨hbusy, -⟩ | ⟨-, -, -, rfl⟩ | ⟨-, -, rfl⟩
    · exact absurd hs hbusy
    · exact .inl rfl
    · rw [runSeq_sequenceOf hq]
      have hp := runMicros_params (leadOps s.params i) { s with reql := requestBits i }
      have hleft := runSeq_transfers_idleWithin hpos (transfersOf s.params s.regs.cfg i) (hp ▸ hn)
      rw [hp] at hleft
      exact hleft.mono (Nat.mul_le_mul_left n (length_transfersOf_le _ _ _))

/-- Settles O37: each busy answer uses up one of the busy checks left, and at `n` of one wait the request ends. -/
theorem busyTimeoutBoundsEveryRequest : Obligations.BusyTimeoutBoundsEveryRequest := by
  unfold Obligations.BusyTimeoutBoundsEveryRequest
  intro s u i n _ hn hpos hs hq ht h
  obtain ⟨⟨hp, -, -, hut, huq, -, -⟩, -⟩ := instructionsLeaveTheRestUnchanged i s u h
  exact run_idleWithin hpos (hp ▸ hn) (huq.trans hq) (hut.trans ht) (exec_idleWithin hpos hn hs hq h)

end Sys2Proof.Machine
end

section
/-! PROOFS. Launch and block reset (R240, R242), and the pins in every step (R34, R36, R133, R245): a request's sequence is
safe from the levels it begins at and back at the idle levels after each of its transfers. -/
namespace Sys2Proof.Machine

/-! ### Launch and block reset -/

/-- Settles O30. -/
theorem launchBeforeBringUpIsRefused : Obligations.LaunchBeforeBringUpIsRefused := by
  unfold Obligations.LaunchBeforeBringUpIsRefused
  intro s h
  have hdown : ¬(s.boardUp && s.lcdUp) = true := by rcases h with h | h <;> simp [h]
  exact if_neg hdown

/-- A planned block reset is the whole step. -/
theorem step_blockReset {s : State} (h : nextTurn s = .blockReset) :
    step s = .next (blockReset { s with turns := s.turns.tail }) := by
  simp only [step, h, takeTurn]

/-- Settles O57: making the controller's state free values leaves the mark of its refusal. -/
theorem blockResetAbandonsAnyRequest : Obligations.BlockResetAbandonsAnyRequest := by
  unfold Obligations.BlockResetAbandonsAnyRequest
  intro s h
  exact ⟨_, step_blockReset h, rfl, rfl, rfl, rfl, rfl, rfl, rfl, rfl, rfl, rfl, rfl, rfl, rfl, rfl, rfl⟩

/-! ### The control levels -/

/-- The control levels block reset leaves (R43). -/
def Control.released : Control where
  e := false
  rw := false
  ctrlOe := false
  dbOe := false

theorem controlOf_eq_idle_iff (p : Pins) : controlOf p = Control.idle ↔ IdlePins p := by
  simp only [controlOf, Control.idle, Control.mk.injEq]
  tauto

theorem controlOf_eq_released {p : Pins} (h : ReleasedPins p) : controlOf p = Control.released := by
  obtain ⟨he, hrw, hdb, hctrl⟩ := h
  simp only [controlOf, he, hrw, hctrl, hdb, Control.released]

/-- `controlAfter` is what a micro-operation does to the pins of the model. -/
theorem controlOf_micro (op : MicroOp) (s : State) :
    controlOf (micro op s).pins = controlAfter op (controlOf s.pins) := by
  cases op <;> rfl

theorem settles_nil (c : Control) : settles [] c = true ↔ c = Control.idle := beq_iff_eq

theorem settles_cons (op : MicroOp) (ops : List MicroOp) (c : Control) :
    settles (op :: ops) c = true ↔
      levelsFor op c = true ∧ (controlAfter op c).noContention = true ∧ settles ops (controlAfter op c) = true := by
  simp only [settles, Bool.and_eq_true, and_assoc]

/-- A stretch that settles hands on the idle levels to what follows it. -/
theorem settles_append {ops rest : List MicroOp} {c : Control} (h : settles ops c = true)
    (hr : settles rest Control.idle = true) : settles (ops ++ rest) c = true := by
  induction ops generalizing c with
  | nil => exact (settles_nil c).1 h ▸ hr
  | cons op ops ih =>
    obtain ⟨hl, hn, hs⟩ := (settles_cons _ _ _).1 h
    exact (settles_cons _ _ _).2 ⟨hl, hn, ih hs⟩

/-! ### A request's sequence settles -/

theorem settles_rawRead (m : BusMode) (r : Rs) : settles (rawReadOps m r) Control.idle = true := by
  cases m <;> rfl

theorem settles_rawWrite (m : BusMode) (r : Rs) : settles (rawWriteOps m r) Control.idle = true := by
  cases m <;> rfl

theorem settles_pollRound (m : BusMode) : settles (pollRoundOps m) Control.idle = true :=
  settles_append (settles_rawRead m .C) rfl

/-- A transfer begins and ends at the idle levels, and so does its busy wait within it (R123 to R125). -/
theorem Transfer.settles_ops (m : BusMode) (x : Transfer) : settles (x.ops m) Control.idle = true := by
  have hload : settles x.load Control.idle = true := by cases x <;> rfl
  have hbody : settles (x.body m) Control.idle = true := by
    cases x with
    | write r b => exact settles_rawWrite m r
    | read r => exact settles_append (settles_rawRead m r) rfl
    | jump => exact settles_rawWrite m .C
  have hpoll : settles (pollBusyOps m) Control.idle = true := settles_pollRound m
  rw [x.ops_eq]
  exact settles_append hload (settles_append hpoll hbody)

theorem settles_transferOps (m : BusMode) (xs : List Transfer) : settles (transferOps m xs) Control.idle = true := by
  induction xs with
  | nil => rfl
  | cons x xs ih => exact settles_append (x.settles_ops m) ih

theorem settles_leadOps (p : Params) (i : Instr) : settles (leadOps p i) Control.idle = true := by
  cases i with
  | init => rfl
  | busy => exact settles_append (settles_rawRead _ .C) rfl
  | _ => rfl

/-- A request's sequence and its commit settle: INIT's also from the released pins, which it drives (R200, R245). -/
theorem settles_sequenceOf (p : Params) (cfg : DisplayConfig) {i : Instr} {c : Control}
    (h : c = Control.idle ∨ i = .init ∧ c = Control.released) :
    settles (sequenceOf p cfg i ++ [.commit]) c = true := by
  have hlead : settles (leadOps p i) c = true := by
    rcases h with rfl | ⟨rfl, rfl⟩
    · exact settles_leadOps p i
    · rfl
  rw [sequenceOf_eq, List.append_assoc]
  exact settles_append hlead (settles_append (settles_transferOps _ _) rfl)

/-! ### The pins in a step -/

/-- The invariant with `ops` to come, in place of the state's own sequence. -/
abbrev PinsWith (ops : List MicroOp) (s : State) : Prop :=
  (controlOf s.pins).noContention = true ∧ settles ops (controlOf s.pins) = true

theorem PinsWith.micro {op : MicroOp} {rest : List MicroOp} {s : State} (h : PinsWith (op :: rest) s) :
    PinsWith rest (micro op s) := by
  obtain ⟨-, hn, hs⟩ := (settles_cons _ _ _).1 h.2
  rw [PinsWith, controlOf_micro]
  exact ⟨hn, hs⟩

/-- At the idle levels the pins are safe, whatever remains, if that settles. -/
theorem pinsSafe_of_idle {s : State} (h : controlOf s.pins = Control.idle)
    (hs : s.seq ≠ [] → settles s.seq Control.idle = true) : PinsSafe s := by
  refine ⟨?_, ?_, fun _ => .inl ((controlOf_eq_idle_iff _).1 h)⟩ <;> rw [h]
  · rfl
  · exact hs

/-- A busy check stands at the idle levels, and what follows it settles from them. -/
theorem PinsWith.pollTest {rest : List MicroOp} {s : State} (h : PinsWith (.pollTest :: rest) s) :
    controlOf s.pins = Control.idle ∧ settles rest Control.idle = true := by
  obtain ⟨hl, -, hs⟩ := (settles_cons _ _ _).1 h.2
  have hidle : controlOf s.pins = Control.idle := beq_iff_eq.1 hl
  exact ⟨hidle, hidle ▸ hs⟩

/-- A turn of what remains of a request keeps the pins safe: it ends at the idle levels, pauses within what settles, or is
sent back by a busy check, which stands at the idle levels (R125). -/
theorem runSeq_pinsSafe (q : Option Nat) {ops : List MicroOp} {s : State} (h : PinsWith ops s) :
    PinsSafe (runSeq q ops s) := by
  refine runSeq_induction (P := PinsWith) ?_ ?_ ?_ ?_ ?_ q ops s h
  · exact fun u hu => pinsSafe_of_idle ((settles_nil _).1 hu.2) fun hne => absurd rfl hne
  · exact fun op rest u hu => ⟨hu.1, fun _ => hu.2, nofun⟩
  · exact fun rest u hu _ => pinsSafe_of_idle hu.pollTest.1 fun hne => absurd rfl hne
  · exact fun rest u hu _ => pinsSafe_of_idle hu.pollTest.1 fun _ => settles_append (settles_pollRound _) hu.pollTest.2
  · exact fun op rest u hu _ => hu.micro

/-- On the ready block a request that passes the INITD check begins at levels its sequence settles from. -/
theorem PinsSafe.begins {s : State} {i : Instr} (h : PinsSafe s) (hs : s.seq = [])
    (hinit : s.regs.initd = true ∨ i = .init) : PinsWith (sequenceOf s.params s.regs.cfg i ++ [.commit]) s := by
  obtain ⟨hn, -, hidle⟩ := h
  refine ⟨hn, settles_sequenceOf _ _ ?_⟩
  rcases hidle hs with hp | ⟨hd, hp⟩
  · exact .inl ((controlOf_eq_idle_iff _).2 hp)
  · exact .inr ⟨hinit.resolve_left fun h => Bool.false_ne_true (hd.symm.trans h), controlOf_eq_released hp⟩

/-- Settles O49: a turn of a request keeps the pins safe, block reset releases them, and no other step moves them. -/
theorem pinsStaySafe : Obligations.PinsStaySafe := by
  unfold Obligations.PinsStaySafe
  intro s t hp h
  rcases step_cases h with ⟨_, _, _, rfl⟩ | ⟨-, rfl⟩ | ⟨_, _, -, hs, rfl⟩ | ⟨i, rest, -, hs, hi, he⟩ | ⟨hs, rfl⟩ |
    ⟨_, _, rfl, -⟩
  · exact hp
  · exact ⟨rfl, fun hne => absurd rfl hne, fun _ => .inr ⟨rfl, rfl, rfl, rfl, rfl⟩⟩
  · exact ⟨hp.1, fun hne => absurd rfl hne, fun _ => hp.2.2 hs⟩
  · rcases exec_request_cases hi he with ⟨-, rfl⟩ | ⟨-, -, -, rfl⟩ | ⟨-, hinit, rfl⟩
    · exact hp
    · exact ⟨hp.1, fun hne => absurd rfl hne, fun _ => hp.2.2 hs⟩
    · exact runSeq_pinsSafe _ (hp.begins hs hinit)
  · exact runSeq_pinsSafe _ ⟨hp.1, hp.2.1 hs⟩
  · exact hp

end Sys2Proof.Machine
end

section
/-! PROOFS. Finitely many busy answers (R125, R250): a transfer that meets them begins its wait again, so every request
completes once they stop. -/
namespace Sys2Proof.Machine

/-! ### A wait without a bound -/

/-- Nothing but a clear draw ends a busy wait: the answers are draws, there is no BUSY_TIMEOUT, and the block's turns,
without a bound, follow each other in the default order. -/
abbrev WaitsForADraw (s : State) : Prop :=
  s.params.controller = .draws ∧ s.params.busyTimeout = none ∧ s.quantum = none ∧ s.turns = []

theorem Moves.waitsForADraw {k : Nat} {evs : List Event} {s t : State} (m : Moves k evs s t) (h : WaitsForADraw s) :
    WaitsForADraw t := by
  obtain ⟨hp, -, -, ht, hq, -, -⟩ := m.around
  rw [WaitsForADraw, hp, ht, hq]
  exact h

/-- The state in which a transfer begins its busy wait: its byte is loaded and no poll is counted (R124, R125). -/
def waitBegun (x : Transfer) (s : State) : State := { s with tx := (runMicros x.load s).tx, pollcnt := 0 }

/-- A transfer goes on with the first round of its wait. -/
theorem runSeq_transfer_round (m : BusMode) (x : Transfer) (rest : List MicroOp) (s : State) :
    runSeq none (x.ops m ++ rest) s = runSeq none (pollRoundOps m ++ (x.body m ++ rest)) (waitBegun x s) := by
  rw [runSeq_transfer, pollBusyOps, List.cons_append, runSeq_plain (by decide)]
  rfl

/-- The first busy check of a transfer's wait takes one draw. -/
theorem waitBegun_moves (x : Transfer) {s : State} (hc : s.params.controller = .draws) :
    (waitBegun x s).answer .C = s.drawAt 0 ∧ Moves 1 [.poll (s.drawAt 0)] s (pollState (waitBegun x s)) := by
  have hans : (waitBegun x s).answer .C = s.drawAt 0 := by
    rw [State.answer, show (waitBegun x s).params.controller = .draws from hc]
    rfl
  obtain ⟨m, -⟩ := busyCheck_moves (waitBegun x s)
  rw [hans] at m
  exact ⟨hans, m.trace, m.regs, m.reql, m.around, m.draws, m.reads, m.pins⟩

/-- Without a poll count, beginning the wait again changes nothing: the load loads the same byte. -/
theorem waitBegun_pollState (x : Transfer) {s : State} (hn : s.params.busyTimeout = none) :
    waitBegun x (pollState (waitBegun x s)) = pollState (waitBegun x s) := by
  have hcount : pollCount (waitBegun x s) = 0 := by
    rw [pollCount, show (waitBegun x s).params.busyTimeout = none from hn]
    rfl
  have hkept : pollState (waitBegun x s) = { pollState (waitBegun x s) with pollcnt := 0 } := by
    rw [← hcount]
    rfl
  rw [hkept]
  cases x <;> rfl

section
variable (x : Transfer) {s : State} (hw : WaitsForADraw s) (h : busyFlag (s.drawAt 0) = true) (rest : List MicroOp)
include hw h

/-- A busy draw sends a transfer back to the start of the round (R125). -/
theorem runSeq_transfer_busy :
    runSeq none (x.ops s.params.busMode ++ rest) s = { pollState (waitBegun x s) with
      seq := pollRoundOps s.params.busMode ++ (x.body s.params.busMode ++ rest) } := by
  obtain ⟨hc, hn, -, -⟩ := hw
  have hto := timedOut_pollState_eq_false (s := waitBegun x s) fun n hs => absurd (hn.symm.trans hs) nofun
  rw [runSeq_transfer_round]
  refine (runSeq_pollRound _ (waitBegun x s)).trans ?_
  rw [(waitBegun_moves x hc).1, if_pos h, hto]
  rfl

/-- After a busy draw the block's next turn does what the transfer, begun again, would do (R125, R250). -/
theorem step_transfer_busy :
    step (runSeq none (x.ops s.params.busMode ++ rest) s) =
      .next (runSeq none (x.ops s.params.busMode ++ rest) (pollState (waitBegun x s))) := by
  have hne := pollRoundOps_append_ne_nil s.params.busMode (x.body s.params.busMode ++ rest)
  obtain ⟨-, -, hq, ht⟩ := (waitBegun_moves x hw.1).2.waitsForADraw hw
  rw [runSeq_transfer_busy x hw h, runSeq_transfer_round, waitBegun_pollState x hw.2.1]
  generalize pollState (waitBegun x s) = w at hq ht ⊢
  generalize pollRoundOps s.params.busMode ++ (x.body s.params.busMode ++ rest) = ops at hne ⊢
  have hturn : nextTurn { w with seq := ops } = .block := by simp [nextTurn, ht, ready, hne]
  have hturns : { w with turns := w.turns.tail } = w := by rw [ht, List.tail_nil, ← ht]
  rw [step_block hturn hq rfl hne]
  exact congrArg _ ((runSeq_withSeq none ops ops { w with turns := w.turns.tail }).trans (congrArg _ hturns))

end

/-- A list over the places `0` to `n + 1`, its first entry apart. -/
theorem map_range_succ_succ {α : Type} (f : Nat → α) (n : Nat) :
    (List.range (n + 2)).map f = f 0 :: (List.range (n + 1)).map fun k => f (k + 1) := by
  rw [List.range_succ_eq_map, List.map_cons, List.map_map]
  rfl

/-- With `n` busy draws and then a clear one, a transfer is performed after `n` more steps: `n + 1` polls, then its own
event, and the steps after it go on from there (R125, R250). -/
theorem run_transfer (x : Transfer) {n : Nat} {s : State} (hw : WaitsForADraw s)
    (hbusy : ∀ k < n, busyFlag (s.drawAt k) = true) (hclear : busyFlag (s.drawAt n) = false) (rest : List MicroOp) :
    ∃ t, (∀ k, Sys2Proof.core.run (k + n) (runSeq none (x.ops s.params.busMode ++ rest) s) =
        Sys2Proof.core.run k (runSeq none rest t)) ∧
      t.acc = x.kept s.acc (fun j => s.drawAt (j + n)) ∧
      Moves (n + x.draws) (((List.range (n + 1)).map fun k => .poll (s.drawAt k)) ++ [x.event t.acc]) s t := by
  induction n generalizing s with
  | zero =>
    obtain ⟨t, hrun, hacc, hmoves⟩ := runSeq_transfer_clear x hw.1 hclear
    refine ⟨t, fun k => congrArg _ (hrun rest), hacc, ?_⟩
    rw [hacc, Nat.zero_add]
    exact hmoves
  | succ n ih =>
    have hm := (waitBegun_moves x hw.1).2
    have hstep := step_transfer_busy x hw (hbusy 0 n.succ_pos) rest
    obtain ⟨t, hrun, hacc, hmoves⟩ := ih (hm.waitsForADraw hw)
      (fun k hk => by rw [hm.draws]; exact hbusy _ (Nat.succ_lt_succ hk)) (by rw [hm.draws]; exact hclear)
    have hall := hm.trans hmoves
    rw [hm.params] at hrun
    simp only [hm.draws] at hacc hall
    refine ⟨t, fun k => ?_, hacc, ?_⟩
    · exact (run_succ_of_step (M := Sys2Proof.core) hstep (k + n)).trans (hrun k)
    · rw [map_range_succ_succ, List.cons_append, show n + 1 + x.draws = 1 + (n + x.draws) by omega]
      exact hall

/-! ### CLEAR -/

/-- Settles O36: CLEAR is one transfer and its commit. -/
theorem clearCompletesAfterFinitelyManyBusyAnswers : Obligations.ClearCompletesAfterFinitelyManyBusyAnswers := by
  unfold Obligations.ClearCompletesAfterFinitelyManyBusyAnswers
  intro s n ha hc hn ht hbusy hclear
  obtain ⟨t, hrun, -, hmoves⟩ := run_transfer (.write .C cmdClearByte) (s := { s with reql := requestBits .clear })
    ⟨hc, hn, ha.2.2, ht⟩ hbusy hclear [.commit]
  obtain ⟨hfin, hregs⟩ := hmoves.finished (decode_requestBits (i := .clear) rfl nofun)
  have hend := hrun 0
  rw [Nat.zero_add, runSeq_commit] at hend
  exact ⟨_, _, congrArg Host.Outcome.next (request_accepting ha .clear _), hend, hfin.1, hregs,
    hfin.2.2.1.trans (List.append_assoc _ _ _).symm⟩

/-! ### Every request -/

namespace Transfer

/-- `x` may come before `y`: its event does not depend on the byte the request reads, or `y` reads none. -/
def MayPrecede (x y : Transfer) : Prop :=
  (∀ v w, x.event v = x.event w) ∨ ∀ acc d, y.kept acc d = acc

theorem mayPrecede_of_write (r : Rs) (b : Byte) (y : Transfer) : (write r b).MayPrecede y := .inl fun _ _ => rfl

end Transfer

/-- A request reads at most once, before its jump, so every event is told by the byte it has read in the end. -/
theorem pairwise_transfersOf (p : Params) (cfg : DisplayConfig) (i : Instr) :
    (transfersOf p cfg i).Pairwise Transfer.MayPrecede := by
  cases i with
  | init => exact List.pairwise_map.2 (List.pairwise_of_forall fun _ _ => Transfer.mayPrecede_of_write _ _ _)
  | feed c =>
    simp only [transfersOf]
    cases classOf c with
    | cr =>
      have hjump : Transfer.MayPrecede (.read .C) .jump := .inr fun _ _ => rfl
      simp [Transfer.mayPrecede_of_write, hjump]
    | _ => simp [Transfer.mayPrecede_of_write]
  | _ => simp [transfersOf]

/-- How many answers transfers take when each busy check is clear. -/
def drawsOf (xs : List Transfer) : Nat := (xs.map Transfer.draws).sum

theorem drawsOf_cons (x : Transfer) (xs : List Transfer) : drawsOf (x :: xs) = x.draws + drawsOf xs := List.sum_cons

theorem drawsOf_writes (r : Rs) (ks : List Byte) : drawsOf (ks.map (.write r)) = ks.length := by
  induction ks with
  | nil => rfl
  | cons k ks ih => rw [List.map_cons, drawsOf_cons, ih, List.length_cons, Nat.add_comm]; rfl

/-- No request but INIT takes more than four answers (R106). -/
theorem drawsOf_transfersOf_le (p : Params) (cfg : DisplayConfig) (i : Instr) :
    drawsOf (transfersOf p cfg i) ≤ 4 + p.initCmds.length := by
  cases i with
  | init =>
    rw [transfersOf, drawsOf_writes]
    exact Nat.le_add_left _ _
  | feed c =>
    simp only [transfersOf]
    cases classOf c with
    | printable => simp only [drawsOf, Transfer.draws, List.map_cons, List.map_nil, List.sum_cons, List.sum_nil]; omega
    | _ => simp [drawsOf, Transfer.draws]
  | _ => simp [transfersOf, drawsOf, Transfer.draws] <;> omega

/-- The transfers R106 gives a request that has read `v` are the events of its transfers. -/
theorem requestTransfers_eq_map (p : Params) (cfg : DisplayConfig) (v : Byte) (i : Instr) :
    requestTransfers p cfg v i = (transfersOf p cfg i).map (Transfer.event v) := by
  cases i with
  | init => simp [requestTransfers, transfersOf, Transfer.event]
  | entry inc => rw [requestTransfers, ← entryByte_eq]; rfl
  | display on => rw [requestTransfers, ← dispByte_eq]; rfl
  | configure l f => rw [requestTransfers, ← fsByte_eq]; rfl
  | line n =>
    simp only [requestTransfers, transfersOf, lineBase]
    split <;> rfl
  | feed c =>
    induction c using feed_byte_cases with
    | hbs => rfl
    | hcr => simp only [requestTransfers, crFunctionSet_eq, ← crJumpByte_eq]; rfl
    | hlf => rfl
    | hglyph c hbs hcr hlf =>
      simp only [requestTransfers, transfersOf, if_neg hbs, if_neg hcr, if_neg hlf, classOf_printable hbs hcr hlf]
      rfl
  | _ => rfl

/-- From `s` to `t` a request has come on by the events `evs` and has not committed. -/
structure Underway (evs : List Event) (s t : State) : Prop where
  trace : t.trace = s.trace ++ evs
  regs : t.regs = s.regs
  reql : t.reql = s.reql
  params : t.params = s.params

theorem Underway.refl (s : State) : Underway [] s s := ⟨(List.append_nil _).symm, rfl, rfl, rfl⟩

theorem Moves.underway {k : Nat} {es fs : List Event} {s t u : State} (m : Moves k es s t) (h : Underway fs t u) :
    Underway (es ++ fs) s u where
  trace := by rw [h.trace, m.trace, List.append_assoc]
  regs := h.regs.trans m.regs
  reql := h.reql.trans m.reql
  params := h.params.trans m.params

theorem filter_polls (f : Nat → Byte) (ks : List Nat) : (ks.map fun k => Event.poll (f k)).filter isTransfer = [] := by
  simp [List.filter_map, isTransfer, Function.comp_def]

/-- The first clear draw, when there is one. -/
theorem exists_first_clear {s : State} {m : Nat} (h : busyFlag (s.drawAt m) = false) :
    ∃ n ≤ m, (∀ k < n, busyFlag (s.drawAt k) = true) ∧ busyFlag (s.drawAt n) = false := by
  classical
  have hex : ∃ n, busyFlag (s.drawAt n) = false := ⟨m, h⟩
  exact ⟨Nat.find hex, Nat.find_min' hex h, fun k hk => by simpa using Nat.find_min hex hk, Nat.find_spec hex⟩

/-- With `m` answers of any kind and then enough clear ones, transfers are performed after at most `m` more steps, each
with its own event among the polls (R125, R250). -/
theorem run_transfers {xs : List Transfer} {s : State} {m : Nat} (hw : WaitsForADraw s)
    (hclear : ∀ j < drawsOf xs, busyFlag (s.drawAt (m + j)) = false) (hxs : xs.Pairwise Transfer.MayPrecede)
    (rest : List MicroOp) :
    ∃ k ≤ m, ∃ t evs, Sys2Proof.core.run k (runSeq none (transferOps s.params.busMode xs ++ rest) s) =
        .next (runSeq none rest t) ∧
      Underway evs s t ∧ evs.filter isTransfer = xs.map (Transfer.event t.acc) ∧
      ((∀ x ∈ xs, ∀ acc d, x.kept acc d = acc) → t.acc = s.acc) := by
  induction xs generalizing s m with
  | nil => exact ⟨0, Nat.zero_le _, s, [], rfl, Underway.refl s, rfl, fun _ => rfl⟩
  | cons x xs ih =>
    obtain ⟨hx, hxs⟩ := List.pairwise_cons.1 hxs
    rw [drawsOf_cons] at hclear
    obtain ⟨n, hnm, hbusy, hn⟩ := exists_first_clear (hclear 0 (Nat.add_pos_left x.draws_pos _))
    obtain ⟨u, hrun, hacc, hmoves⟩ := run_transfer x hw hbusy hn (transferOps s.params.busMode xs ++ rest)
    have hclear' : ∀ j < drawsOf xs, busyFlag (u.drawAt (m - (n + x.draws) + j)) = false := fun j hj => by
      obtain ⟨i, hi, hplace⟩ : ∃ i < x.draws + drawsOf xs, m - (n + x.draws) + j + (n + x.draws) = m + i :=
        ⟨m - (n + x.draws) + j + (n + x.draws) - m, by omega, by omega⟩
      rw [hmoves.draws, hplace]
      exact hclear i hi
    obtain ⟨k, hk, t, evs, hrun', hunder, hevs, hkeep⟩ := ih (hmoves.waitsForADraw hw) hclear' hxs
    rw [hmoves.params] at hrun'
    refine ⟨k + n, by omega, t, _, ?_, hmoves.underway hunder, ?_, fun h => ?_⟩
    · rw [transferOps_cons, List.append_assoc, hrun, hrun']
    · have hevent : x.event u.acc = x.event t.acc := by
        by_cases hv : ∀ v w, x.event v = x.event w
        · exact hv _ _
        · rw [hkeep fun y hy => (hx y hy).resolve_left hv]
      have hown : [x.event u.acc].filter isTransfer = [x.event u.acc] := by cases x <;> rfl
      rw [List.filter_append, List.filter_append, filter_polls, hown, hevs, hevent]
      rfl
    · rw [hkeep fun y hy => h y (List.mem_cons_of_mem _ hy), hacc, h x List.mem_cons_self]

/-- Settles O35: BUSY has no wait; any other request is its transfers and its commit. -/
theorem everyRequestCompletesAfterBusyAnswers : Obligations.EveryRequestCompletesAfterBusyAnswers := by
  unfold Obligations.EveryRequestCompletesAfterBusyAnswers
  intro s i m hi hwf hinit hboot hs hq ht hc hn hclear
  by_cases hb : i = .busy
  · subst hb
    obtain ⟨t, v, he, ⟨hseq, hreql, htr, -⟩, hregs, -⟩ := busyReadsOnce s ⟨hs, hinit.resolve_right nofun, hq⟩
    exact ⟨t, 0, t, v, _, he, Nat.zero_le _, rfl, hseq, hreql, hregs, htr, rfl, fun _ => rfl⟩
  · have hexec := exec_request_runs hi hinit hboot hs hq
    rw [runMicros_leadOps hb] at hexec
    generalize (runMicros (leadOps s.params i) { s with reql := requestBits i }).pins = pins at hexec
    obtain ⟨k, hk, t, evs, hrun, hunder, hevs, -⟩ := run_transfers (s := { s with reql := requestBits i, pins })
      ⟨hc, hn, hq, ht⟩ (fun j hj => hclear hb j (hj.trans_le (drawsOf_transfersOf_le _ _ _)))
      (pairwise_transfersOf s.params s.regs.cfg i) [.commit]
    have hd : decode (.request t.reql) = .ok i := hunder.reql ▸ decode_requestBits_wellFormed hi hwf
    have hregs : committedRegs t = commitOf s.params t.acc i s.regs := by
      simp only [committedRegs, hd, hunder.params, hunder.regs]
    rw [runSeq_commit] at hrun
    refine ⟨_, k, _, t.acc, evs, hexec, hk, hrun, rfl, hunder.reql, ?_, hunder.trace, ?_, fun h => absurd h hb⟩
    · rw [← hregs]
      rfl
    · rw [hevs, requestTransfers_eq_map]

end Sys2Proof.Machine
end
